-- ==== Sys2Proof/Word.lean ====
section
/-! DEFINITION. The widths of the machine: nibbles, bytes, 12-bit addresses and 16-bit words
(00_scope.md R8; 10_state.md R10, R12, R13). All values are unsigned. -/

namespace Sys2Proof

/-- A 4-bit field: a register number, a sprite height (30_encoding.md R55). -/
abbrev Nib := BitVec 4

/-- The contents of a general register, a timer or a memory cell. -/
abbrev Byte := BitVec 8

/-- The 12-bit address field NNN of an instruction word (30_encoding.md R55). -/
abbrev Addr := BitVec 12

/-- An instruction word, and the width of pc, I and a stack entry. -/
abbrev Word := BitVec 16

end Sys2Proof
end

