-- ==== Sys2Proof/Config.lean ====
section
/-! DEFINITION. The parameters of 00_scope.md R4 and the free values the spec leaves open.
The parameters' default values stand in Machine/Params.lean. -/

namespace Sys2Proof

/-- DRAW_EDGE (43_display.md R111): what a sprite pixel outside the grid does. -/
inductive DrawEdge where
  | wrap
  | clip
deriving DecidableEq, Repr

/-- ADDR_OOR (20_memory.md R33): what an address above 0xFFF does. -/
inductive AddrOor where
  | wrap
  | fault
deriving DecidableEq, Repr

/-- NIBBLE_OPERAND (42_index_memory.md R102; 44_keypad_timer.md R120): a register above 15 used as a
hex digit or key number. -/
inductive NibbleOperand where
  | mask
  | fault
deriving DecidableEq, Repr

/-- KEY_PRIORITY (44_keypad_timer.md R122; 93_implementation_defined.md U7): which pressed key FX0A reports. -/
inductive KeyPriority where
  | lowest
  | any
deriving DecidableEq, Repr

/-- TONE_SAMPLE (60_exceptions.md R152): when the audio collaborator samples TONE within a Tick. -/
inductive ToneSample where
  | after
  | before
deriving DecidableEq, Repr

/-- The parameters of 00_scope.md R4 whose value is a decision of the spec. They are fixed for one
machine; State carries them because `exec` has no other argument (log 1). -/
structure Config where
  /-- STACK_DEPTH: the number of call/return stack entries (10_state.md R14). -/
  stackDepth : Nat
  /-- FONT_BASE: the address of digit 0's glyph (20_memory.md R32). -/
  fontBase : Nat
  /-- FONT_DATA: 16 glyphs of 5 bytes (20_memory.md R32). -/
  fontData : List Byte
  drawEdge : DrawEdge
  addrOor : AddrOor
  nibbleOperand : NibbleOperand
  keyPriority : KeyPriority
  toneSample : ToneSample
deriving DecidableEq, Repr

/-- FREE VALUE: the byte CXNN draws, indexed by the number of the draw (41_alu.md R91; log 5). -/
opaque Config.randomByte : Nat → Byte

/-- FREE VALUE: the choice FX0A makes among the keys that are down when KEY_PRIORITY is `any`
(93_implementation_defined.md U7; log 6). -/
opaque Config.pickedKey : Nat → Nat

/-- FREE VALUE: FAULT_WORD of an AddressRange that the fetch itself raises; the spec states no value,
for the word was never read whole (log 7). -/
opaque Config.fetchFaultWord : Nat → Word

end Sys2Proof
end

