-- ==== Sys2Proof/Syntax.lean ====
section
/-! DEFINITION. The 34 instructions of 30_encoding.md R56, one constructor per row of
spec/opcode_table.json. Each operand has exactly the width of its field (R55). -/

namespace Sys2Proof

/-- The instruction set, in the order of 30_encoding.md R56. -/
inductive Instr where
  /-- 00E0, clear screen (43_display.md R110). -/
  | cls
  /-- 00EE, return (40_control_flow.md R70). -/
  | ret
  /-- 1NNN, jump (R71). -/
  | jpNnn (nnn : Addr)
  /-- 2NNN, call (R72). -/
  | callNnn (nnn : Addr)
  /-- 3XNN, skip if equal to immediate (R73). -/
  | seVxNn (x : Nib) (nn : Byte)
  /-- 4XNN, skip if not equal to immediate (R74). -/
  | sneVxNn (x : Nib) (nn : Byte)
  /-- 5XY0, skip if registers equal (R75). -/
  | seVxVy (x y : Nib)
  /-- 6XNN, load immediate (41_alu.md R80). -/
  | ldVxNn (x : Nib) (nn : Byte)
  /-- 7XNN, add immediate (R81). -/
  | addVxNn (x : Nib) (nn : Byte)
  /-- 8XY0, copy register (R82). -/
  | ldVxVy (x y : Nib)
  /-- 8XY1, bitwise OR (R83). -/
  | orVxVy (x y : Nib)
  /-- 8XY2, bitwise AND (R84). -/
  | andVxVy (x y : Nib)
  /-- 8XY3, bitwise exclusive OR (R85). -/
  | xorVxVy (x y : Nib)
  /-- 8XY4, add with carry flag (R86). -/
  | addVxVy (x y : Nib)
  /-- 8XY5, subtract with not-borrow flag (R87). -/
  | subVxVy (x y : Nib)
  /-- 8XY6, shift right, the Y-shifting form (R88). -/
  | shrVxVy (x y : Nib)
  /-- 8XY7, reverse subtract (R89). -/
  | subnVxVy (x y : Nib)
  /-- 8XYE, shift left, the Y-shifting form (R90). -/
  | shlVxVy (x y : Nib)
  /-- 9XY0, skip if registers not equal (40_control_flow.md R76). -/
  | sneVxVy (x y : Nib)
  /-- ANNN, load address register (42_index_memory.md R100). -/
  | ldINnn (nnn : Addr)
  /-- BNNN, jump with offset V[0] (40_control_flow.md R77). -/
  | jpV0Nnn (nnn : Addr)
  /-- CXNN, random byte AND immediate (41_alu.md R91). -/
  | rndVxNn (x : Nib) (nn : Byte)
  /-- DXYN, draw sprite (43_display.md R111). -/
  | drwVxVyN (x y n : Nib)
  /-- EX9E, skip if key pressed (44_keypad_timer.md R120). -/
  | skpVx (x : Nib)
  /-- EXA1, skip if key not pressed (R121). -/
  | sknpVx (x : Nib)
  /-- FX07, read delay timer (R123). -/
  | ldVxDt (x : Nib)
  /-- FX0A, wait for key (R122). -/
  | ldVxK (x : Nib)
  /-- FX15, set delay timer (R124). -/
  | ldDtVx (x : Nib)
  /-- FX18, set sound timer (R125). -/
  | ldStVx (x : Nib)
  /-- FX1E, add to I (42_index_memory.md R101). -/
  | addIVx (x : Nib)
  /-- FX29, font glyph address (R102). -/
  | ldFVx (x : Nib)
  /-- FX33, decimal digits (R103). -/
  | ldBVx (x : Nib)
  /-- FX55, store registers (R104). -/
  | ldMemVx (x : Nib)
  /-- FX65, load registers (R105). -/
  | ldVxMem (x : Nib)
deriving DecidableEq, Repr

end Sys2Proof
end

