-- ==== Sys2Proof/WellFormed.lean ====
section
/-! DEFINITION. Well-formedness checks: of instructions (each operand fits its field,
30_encoding.md R55) and of configurations (00_scope.md R4). -/

namespace Sys2Proof

/-- Each operand lies in the range of its field (30_encoding.md R55). The operand types are exactly
as wide as the fields, so every term passes (`Instr.wf_of_typed`, Laws/Encoding.lean): there is no
ill-formed `Instr`. -/
def Instr.wf : Instr → Bool
  | .cls | .ret => true
  | .jpNnn nnn | .callNnn nnn | .ldINnn nnn | .jpV0Nnn nnn => decide (nnn.toNat < 4096)
  | .seVxNn x nn | .sneVxNn x nn | .ldVxNn x nn | .addVxNn x nn | .rndVxNn x nn =>
    decide (x.toNat < 16) && decide (nn.toNat < 256)
  | .seVxVy x y | .ldVxVy x y | .orVxVy x y | .andVxVy x y | .xorVxVy x y | .addVxVy x y
  | .subVxVy x y | .shrVxVy x y | .subnVxVy x y | .shlVxVy x y | .sneVxVy x y =>
    decide (x.toNat < 16) && decide (y.toNat < 16)
  | .drwVxVyN x y n => decide (x.toNat < 16) && decide (y.toNat < 16) && decide (n.toNat < 16)
  | .skpVx x | .sknpVx x | .ldVxDt x | .ldVxK x | .ldDtVx x | .ldStVx x | .addIVx x | .ldFVx x
  | .ldBVx x | .ldMemVx x | .ldVxMem x => decide (x.toNat < 16)

/-- A configuration the spec allows: STACK_DEPTH is at least 1 (93_implementation_defined.md Part 2),
FONT_DATA has 80 bytes (20_memory.md R32), and the font region ends below the load address 0x200
(90_conflicts.md C7: the load range cannot reach the font; log 23). -/
def Config.wf (c : Config) : Bool :=
  decide (1 ≤ c.stackDepth) && decide (c.fontData.length = 80) && decide (c.fontBase + 80 ≤ 0x200)

end Sys2Proof
end

