-- ==== Sys2Proof/Decode.lean ====
section
/-! DEFINITION. Decoder and encoder (30_encoding.md R52, R54 to R58, R62). The decoder dispatches on
the top nibble and then on sub-fields, comparing every fixed nibble (R56; decision D8 of the spec). -/

namespace Sys2Proof

/-! ### The accessors (R62): pure bit selection, nibble 0 the most significant -/

/-- Nibble 0, the major opcode w[15:12]. -/
def nibble0 (w : Word) : Nib := w.extractLsb' 12 4

/-- Nibble 1, w[11:8]: X. -/
def nibble1 (w : Word) : Nib := w.extractLsb' 8 4

/-- Nibble 2, w[7:4]: Y. -/
def nibble2 (w : Word) : Nib := w.extractLsb' 4 4

/-- Nibble 3, w[3:0]: N, or the function code of format XY. -/
def nibble3 (w : Word) : Nib := w.extractLsb' 0 4

/-- The low byte w[7:0]: NN, or the function code of format XF. -/
def lowByte (w : Word) : Byte := w.extractLsb' 0 8

/-- The high byte w[15:8], the byte at the lower address (R55). -/
def highByte (w : Word) : Byte := w.extractLsb' 8 8

/-- The low 12 bits w[11:0]: NNN. -/
def low12 (w : Word) : Addr := w.extractLsb' 0 12

/-! ### The decoder -/

/-- Top nibble 0: only the two whole words 0x00E0 and 0x00EE (R56). -/
def decodeGroup0 (w : Word) : Option Instr :=
  if w = 0x00E0#16 then some .cls
  else if w = 0x00EE#16 then some .ret
  else none

/-- Top nibble 8: the ALU group, by w[3:0] (R56). -/
def decodeGroup8 (x y : Nib) (f : Nat) : Option Instr :=
  match f with
  | 0x0 => some (.ldVxVy x y)
  | 0x1 => some (.orVxVy x y)
  | 0x2 => some (.andVxVy x y)
  | 0x3 => some (.xorVxVy x y)
  | 0x4 => some (.addVxVy x y)
  | 0x5 => some (.subVxVy x y)
  | 0x6 => some (.shrVxVy x y)
  | 0x7 => some (.subnVxVy x y)
  | 0xE => some (.shlVxVy x y)
  | _ => none

/-- Top nibble E: the key skips, by w[7:0] (R56). -/
def decodeGroupE (x : Nib) (f : Nat) : Option Instr :=
  match f with
  | 0x9E => some (.skpVx x)
  | 0xA1 => some (.sknpVx x)
  | _ => none

/-- Top nibble F: the misc group, by w[7:0] (R56). -/
def decodeGroupF (x : Nib) (f : Nat) : Option Instr :=
  match f with
  | 0x07 => some (.ldVxDt x)
  | 0x0A => some (.ldVxK x)
  | 0x15 => some (.ldDtVx x)
  | 0x18 => some (.ldStVx x)
  | 0x1E => some (.addIVx x)
  | 0x29 => some (.ldFVx x)
  | 0x33 => some (.ldBVx x)
  | 0x55 => some (.ldMemVx x)
  | 0x65 => some (.ldVxMem x)
  | _ => none

/-- Dispatch on the top nibble (R52, R56). `none`: the word matches no pattern (R58). -/
def decode (w : Word) : Option Instr :=
  match (nibble0 w).toNat with
  | 0x0 => decodeGroup0 w
  | 0x1 => some (.jpNnn (low12 w))
  | 0x2 => some (.callNnn (low12 w))
  | 0x3 => some (.seVxNn (nibble1 w) (lowByte w))
  | 0x4 => some (.sneVxNn (nibble1 w) (lowByte w))
  | 0x5 => if nibble3 w = 0#4 then some (.seVxVy (nibble1 w) (nibble2 w)) else none
  | 0x6 => some (.ldVxNn (nibble1 w) (lowByte w))
  | 0x7 => some (.addVxNn (nibble1 w) (lowByte w))
  | 0x8 => decodeGroup8 (nibble1 w) (nibble2 w) (nibble3 w).toNat
  | 0x9 => if nibble3 w = 0#4 then some (.sneVxVy (nibble1 w) (nibble2 w)) else none
  | 0xA => some (.ldINnn (low12 w))
  | 0xB => some (.jpV0Nnn (low12 w))
  | 0xC => some (.rndVxNn (nibble1 w) (lowByte w))
  | 0xD => some (.drwVxVyN (nibble1 w) (nibble2 w) (nibble3 w))
  | 0xE => decodeGroupE (nibble1 w) (lowByte w).toNat
  | 0xF => decodeGroupF (nibble1 w) (lowByte w).toNat
  | _ => none

/-- What the decoder says of a byte string: an instruction and the bytes after it, or a named
rejection. -/
inductive Decoded where
  /-- The first two bytes are this instruction. -/
  | instr (i : Instr) (rest : List Byte)
  /-- The first two bytes form a word that matches no pattern of R56 (R58). -/
  | illegal (w : Word) (rest : List Byte)
  /-- Fewer than two bytes: no instruction word (R54). -/
  | truncated (bytes : List Byte)
deriving DecidableEq, Repr

/-- The 16-bit word of two consecutive bytes, the byte at the lower address the more significant
(20_memory.md R36). -/
def wordOfBytes (hi lo : Byte) : Word := hi ++ lo

/-- The decoder on bytes, total: every instruction is two bytes, big-endian (R54). -/
def decodeBytes : List Byte → Decoded
  | hi :: lo :: rest =>
    match decode (wordOfBytes hi lo) with
    | some i => .instr i rest
    | none => .illegal (wordOfBytes hi lo) rest
  | bytes => .truncated bytes

/-! ### The encoder (R54's formats) -/

/-- Format NNN. -/
def formatNNN (op : Nib) (nnn : Addr) : Word := op ++ nnn

/-- Format XNN, and format XF with a fixed low byte. -/
def formatXNN (op x : Nib) (nn : Byte) : Word := (op ++ x : BitVec 8) ++ nn

/-- Format XYN, and format XY with a fixed last nibble. -/
def formatXYN (op x y n : Nib) : Word := ((op ++ x : BitVec 8) ++ y : BitVec 12) ++ n

/-- The word of an instruction (R54, R56). -/
def encode : Instr → Word
  | .cls => 0x00E0#16
  | .ret => 0x00EE#16
  | .jpNnn nnn => formatNNN 0x1#4 nnn
  | .callNnn nnn => formatNNN 0x2#4 nnn
  | .seVxNn x nn => formatXNN 0x3#4 x nn
  | .sneVxNn x nn => formatXNN 0x4#4 x nn
  | .seVxVy x y => formatXYN 0x5#4 x y 0x0#4
  | .ldVxNn x nn => formatXNN 0x6#4 x nn
  | .addVxNn x nn => formatXNN 0x7#4 x nn
  | .ldVxVy x y => formatXYN 0x8#4 x y 0x0#4
  | .orVxVy x y => formatXYN 0x8#4 x y 0x1#4
  | .andVxVy x y => formatXYN 0x8#4 x y 0x2#4
  | .xorVxVy x y => formatXYN 0x8#4 x y 0x3#4
  | .addVxVy x y => formatXYN 0x8#4 x y 0x4#4
  | .subVxVy x y => formatXYN 0x8#4 x y 0x5#4
  | .shrVxVy x y => formatXYN 0x8#4 x y 0x6#4
  | .subnVxVy x y => formatXYN 0x8#4 x y 0x7#4
  | .shlVxVy x y => formatXYN 0x8#4 x y 0xE#4
  | .sneVxVy x y => formatXYN 0x9#4 x y 0x0#4
  | .ldINnn nnn => formatNNN 0xA#4 nnn
  | .jpV0Nnn nnn => formatNNN 0xB#4 nnn
  | .rndVxNn x nn => formatXNN 0xC#4 x nn
  | .drwVxVyN x y n => formatXYN 0xD#4 x y n
  | .skpVx x => formatXNN 0xE#4 x 0x9E#8
  | .sknpVx x => formatXNN 0xE#4 x 0xA1#8
  | .ldVxDt x => formatXNN 0xF#4 x 0x07#8
  | .ldVxK x => formatXNN 0xF#4 x 0x0A#8
  | .ldDtVx x => formatXNN 0xF#4 x 0x15#8
  | .ldStVx x => formatXNN 0xF#4 x 0x18#8
  | .addIVx x => formatXNN 0xF#4 x 0x1E#8
  | .ldFVx x => formatXNN 0xF#4 x 0x29#8
  | .ldBVx x => formatXNN 0xF#4 x 0x33#8
  | .ldMemVx x => formatXNN 0xF#4 x 0x55#8
  | .ldVxMem x => formatXNN 0xF#4 x 0x65#8

/-- The two bytes of an instruction as memory stores them, the high byte at the lower address (R55). -/
def encodeBytes (i : Instr) : List Byte := [highByte (encode i), lowByte (encode i)]

/-! ### The opcode map as masks (R56), independent of the decoder -/

/-- The (mask, match) pairs of R56, in its order: `w` is the instruction iff `w & mask = match`. -/
def opcodeRows : List (Word × Word) :=
  [(0xFFFF, 0x00E0), (0xFFFF, 0x00EE), (0xF000, 0x1000), (0xF000, 0x2000), (0xF000, 0x3000),
   (0xF000, 0x4000), (0xF00F, 0x5000), (0xF000, 0x6000), (0xF000, 0x7000)] ++
  [(0xF00F, 0x8000), (0xF00F, 0x8001), (0xF00F, 0x8002), (0xF00F, 0x8003), (0xF00F, 0x8004),
   (0xF00F, 0x8005), (0xF00F, 0x8006), (0xF00F, 0x8007), (0xF00F, 0x800E), (0xF00F, 0x9000)] ++
  [(0xF000, 0xA000), (0xF000, 0xB000), (0xF000, 0xC000), (0xF000, 0xD000), (0xF0FF, 0xE09E),
   (0xF0FF, 0xE0A1)] ++
  [(0xF0FF, 0xF007), (0xF0FF, 0xF00A), (0xF0FF, 0xF015), (0xF0FF, 0xF018), (0xF0FF, 0xF01E),
   (0xF0FF, 0xF029), (0xF0FF, 0xF033), (0xF0FF, 0xF055), (0xF0FF, 0xF065)]

/-- The row of R56 an instruction belongs to. -/
def rowOf : Instr → Word × Word
  | .cls => (0xFFFF, 0x00E0)
  | .ret => (0xFFFF, 0x00EE)
  | .jpNnn _ => (0xF000, 0x1000)
  | .callNnn _ => (0xF000, 0x2000)
  | .seVxNn _ _ => (0xF000, 0x3000)
  | .sneVxNn _ _ => (0xF000, 0x4000)
  | .seVxVy _ _ => (0xF00F, 0x5000)
  | .ldVxNn _ _ => (0xF000, 0x6000)
  | .addVxNn _ _ => (0xF000, 0x7000)
  | .ldVxVy _ _ => (0xF00F, 0x8000)
  | .orVxVy _ _ => (0xF00F, 0x8001)
  | .andVxVy _ _ => (0xF00F, 0x8002)
  | .xorVxVy _ _ => (0xF00F, 0x8003)
  | .addVxVy _ _ => (0xF00F, 0x8004)
  | .subVxVy _ _ => (0xF00F, 0x8005)
  | .shrVxVy _ _ => (0xF00F, 0x8006)
  | .subnVxVy _ _ => (0xF00F, 0x8007)
  | .shlVxVy _ _ => (0xF00F, 0x800E)
  | .sneVxVy _ _ => (0xF00F, 0x9000)
  | .ldINnn _ => (0xF000, 0xA000)
  | .jpV0Nnn _ => (0xF000, 0xB000)
  | .rndVxNn _ _ => (0xF000, 0xC000)
  | .drwVxVyN _ _ _ => (0xF000, 0xD000)
  | .skpVx _ => (0xF0FF, 0xE09E)
  | .sknpVx _ => (0xF0FF, 0xE0A1)
  | .ldVxDt _ => (0xF0FF, 0xF007)
  | .ldVxK _ => (0xF0FF, 0xF00A)
  | .ldDtVx _ => (0xF0FF, 0xF015)
  | .ldStVx _ => (0xF0FF, 0xF018)
  | .addIVx _ => (0xF0FF, 0xF01E)
  | .ldFVx _ => (0xF0FF, 0xF029)
  | .ldBVx _ => (0xF0FF, 0xF033)
  | .ldMemVx _ => (0xF0FF, 0xF055)
  | .ldVxMem _ => (0xF0FF, 0xF065)

/-- `w` belongs to the row (R56). -/
abbrev matchesRow (w : Word) (row : Word × Word) : Prop := w &&& row.1 = row.2

/-! ### The host's numbering of a table word -/

/-- The word whose `nbits` low bits are those of `w`, the rest 0. -/
def tableWord (nbits w : Nat) : Word := BitVec.ofNat 16 (w % 2 ^ nbits)

/-- The instruction the decoder reads from the table's bits `w`, laid out in memory big-endian. -/
def decodeTableWord (nbits w : Nat) : Option Instr :=
  match decodeBytes [highByte (tableWord nbits w), lowByte (tableWord nbits w)] with
  | .instr i _ => some i
  | .illegal _ _ => none
  | .truncated _ => none

end Sys2Proof
end

