-- ==== Sys2Proof/Machine/Params.lean ====
section
/-! DEFINITION. The defaults and constants of 00_scope.md R4, and what memory holds after reset
(20_memory.md R31, R32; 10_state.md R23). -/

namespace Sys2Proof.Machine

/-- MEM_SIZE (R4): 4096 bytes, addresses 0x000 to 0xFFF. -/
def memSize : Nat := 4096

/-- ENTRY (R4): the first pc after reset. -/
def entryPoint : Word := 0x0200#16

/-- LOAD_BASE (R4): where the program image goes. -/
def loadBase : Nat := 0x200

/-- PROG_MAX (R4): the longest program image, 2048 bytes. -/
def progMax : Nat := 0x800

/-- GLYPH_BYTES (R4). -/
def glyphBytes : Nat := 5

/-- FONT_GLYPHS · GLYPH_BYTES (R4): the size of the font region. -/
def fontBytes : Nat := 80

/-- The default FONT_DATA (20_memory.md R32, its table), digits 0 to F.
PRESUMED: the spec takes the bytes from general knowledge (decision D2; log 9). -/
def fontDefault : List Byte :=
  [0xF0#8, 0x90#8, 0x90#8, 0x90#8, 0xF0#8] ++ [0x20#8, 0x60#8, 0x20#8, 0x20#8, 0x70#8] ++
  [0xF0#8, 0x10#8, 0xF0#8, 0x80#8, 0xF0#8] ++ [0xF0#8, 0x10#8, 0xF0#8, 0x10#8, 0xF0#8] ++
  [0x90#8, 0x90#8, 0xF0#8, 0x10#8, 0x10#8] ++ [0xF0#8, 0x80#8, 0xF0#8, 0x10#8, 0xF0#8] ++
  [0xF0#8, 0x80#8, 0xF0#8, 0x90#8, 0xF0#8] ++ [0xF0#8, 0x10#8, 0x20#8, 0x40#8, 0x40#8] ++
  [0xF0#8, 0x90#8, 0xF0#8, 0x90#8, 0xF0#8] ++ [0xF0#8, 0x90#8, 0xF0#8, 0x10#8, 0xF0#8] ++
  [0xF0#8, 0x90#8, 0xF0#8, 0x90#8, 0x90#8] ++ [0xE0#8, 0x90#8, 0xE0#8, 0x90#8, 0xE0#8] ++
  [0xF0#8, 0x80#8, 0x80#8, 0x80#8, 0xF0#8] ++ [0xE0#8, 0x90#8, 0x90#8, 0x90#8, 0xE0#8] ++
  [0xF0#8, 0x80#8, 0xF0#8, 0x80#8, 0xF0#8] ++ [0xF0#8, 0x80#8, 0xF0#8, 0x80#8, 0x80#8]

/-- The parameters at their stated defaults (R4). PRESUMED: STACK_DEPTH 16 and the font (decisions
D2, D3; log 9, 10). DESIGN CHOICE of the spec: the other defaults (log 18). -/
def defaultConfig : Config where
  stackDepth := 16
  fontBase := 0x000
  fontData := fontDefault
  drawEdge := .wrap
  addrOor := .wrap
  nibbleOperand := .mask
  keyPriority := .lowest
  toneSample := .after

/-- What the byte at address `a` holds after reset, and so what an address the memory list does not
name reads as: FONT_DATA in the font region, 0x00 elsewhere (10_state.md R23; decision D6 of the
spec; log 17). -/
def resetByte (c : Config) (a : Nat) : Byte :=
  if c.fontBase ≤ a ∧ a < c.fontBase + fontBytes then c.fontData.getD (a - c.fontBase) 0#8 else 0#8

end Sys2Proof.Machine
end

