-- ==== Sys2Proof/Machine/Mem.lean ====
section
/-! DEFINITION. Memory (10_state.md R20; 20_memory.md R30 to R36): a list of the cells that differ
from the reset contents, in one canonical form (log 17). -/

namespace Sys2Proof.Machine

/-- Memory as the list of its cells that differ from the reset contents, addresses rising. -/
abbrev Memory := List Host.Cell

/-- The 12-bit address path: every address presented to Memory is reduced modulo 4096 (20_memory.md
R33; decision D4 of the spec). -/
def busAddress (a : Nat) : Nat := a % memSize

/-- The value of the cell at address `a`, looked up in the list, or its reset contents. -/
def cellAt (c : Config) : Memory → Nat → Byte
  | [], a => resetByte c a
  | cell :: rest, a => if cell.1 = a then cell.2 else cellAt c rest a

/-- The list without a cell at address `a`. -/
def dropCell (a : Nat) (m : Memory) : Memory := m.filter fun cell => cell.1 != a

/-- The list with the cell `(a, v)` put before the first cell of a higher address. -/
def insertCell (a : Nat) (v : Byte) : Memory → Memory
  | [] => [(a, v)]
  | cell :: rest => if a < cell.1 then (a, v) :: cell :: rest else cell :: insertCell a v rest

/-- The list with the cell at address `a` set to `v`: no entry where `v` is the reset contents. -/
def putCell (c : Config) (m : Memory) (a : Nat) (v : Byte) : Memory :=
  if v = resetByte c a then dropCell a m else insertCell a v (dropCell a m)

/-- `MemRead(a, 1)` (R34). -/
def Memory.read (c : Config) (m : Memory) (a : Nat) : Byte := cellAt c m (busAddress a)

/-- `MemWrite(a, 1, v)` (R35). -/
def Memory.write (c : Config) (m : Memory) (a : Nat) (v : Byte) : Memory :=
  putCell c m (busAddress a) v

/-- The canonical form from address `low` on: addresses rise, stay below 4096, and no cell holds its
reset contents. -/
def wfFrom (c : Config) : Nat → Memory → Bool
  | _, [] => true
  | low, cell :: rest =>
    decide (low ≤ cell.1) && decide (cell.1 < memSize) && decide (cell.2 ≠ resetByte c cell.1)
      && wfFrom c (cell.1 + 1) rest

/-- The canonical form of Memory. -/
def Memory.wf (c : Config) (m : Memory) : Bool := wfFrom c 0 m

end Sys2Proof.Machine
end

