-- ==== Sys2Proof/Machine/State.lean ====
section
/-! DEFINITION. The state (10_state.md R10 to R24), the reasons a move can stop, and reset (R23). -/

namespace Sys2Proof.Machine

/-- STATUS.CAUSE (10_state.md R18; 60_exceptions.md R141, which allows a closed inductive). -/
inductive Cause where
  /-- 0: no fault. -/
  | none
  /-- 1: the fetched word matches no pattern. -/
  | decodeError
  /-- 2: a call with the stack full. -/
  | stackOverflow
  /-- 3: a return with the stack empty. -/
  | stackUnderflow
  /-- 4: an address above 0xFFF, only when ADDR_OOR is `fault`. -/
  | addressRange
deriving DecidableEq, Repr

/-- STATUS (10_state.md R18). -/
structure Status where
  /-- RUN: Steps are enabled. -/
  run : Bool
  cause : Cause
  /-- FAULT_PC: where the faulting instruction was fetched from. -/
  faultPc : Word
  /-- FAULT_WORD: the faulting instruction word. -/
  faultWord : Word
deriving DecidableEq, Repr

/-- One scheduled move of the Host or the clock (10_state.md R22; 60_exceptions.md R158; log 3). -/
inductive Event where
  /-- STEP: one Step is taken. -/
  | step
  /-- TICK (60_exceptions.md R150). -/
  | tick
  /-- The KEY inputs take these levels, bit k is KEY[k] (44_keypad_timer.md R126). -/
  | keys (levels : Word)
  /-- The Host reads the frame; DIRTY is cleared (43_display.md R114). -/
  | snapshot
  /-- RESET, then LOAD of the image (70_reset_and_hazards.md R170 to R172; log 12). -/
  | restart (image : List Byte)
deriving DecidableEq, Repr

/-- The pixel array, row y at index y, column 0 as bit 63 of the row (43_display.md R112). -/
abbrev Display := Vector (BitVec 64) 32

/-- The machine. The fields from `keys` on, and `cfg`, are the model's own (INVENTORY.md). -/
structure State where
  /-- The parameters of 00_scope.md R4; constant (log 1). -/
  cfg : Config
  /-- V[0] to V[15] (10_state.md R10). -/
  v : Vector Byte 16
  /-- I, the address register (R12). -/
  i : Word
  /-- pc (R13). -/
  pc : Word
  /-- S[0] to S[STACK_DEPTH−1] (R14). -/
  stack : List Word
  /-- SP, the number of entries in use (R14). -/
  sp : Nat
  /-- M (R20). -/
  mem : Memory
  /-- D (R15). -/
  display : Display
  /-- DIRTY (R16). -/
  dirty : Bool
  /-- DT, the delay timer (R17). -/
  dt : Byte
  /-- ST, the sound timer (R17). -/
  st : Byte
  /-- STATUS (R18). -/
  status : Status
  /-- The KEY input levels, bit k is KEY[k] (R22; log 4). -/
  keys : Word
  /-- How many free values have been drawn (log 5). -/
  draws : Nat
  /-- The moves the Host and the clock have scheduled, the next one first (log 3). -/
  agenda : List Event
deriving DecidableEq, Repr

/-- Why a move can stop the machine. -/
inductive Fault where
  /-- Raised by a Step asked of a halted machine: no Step takes place (30_encoding.md R53;
  60_exceptions.md R144: a model treats a halted state as a fault outcome). Safe (log 2). -/
  | halted (cause : Cause)
  /-- Raised by FX29, EX9E, EXA1 on V[X] > 15 under NIBBLE_OPERAND = `fault` only: the spec names no
  cause and no entry for it (93_implementation_defined.md U5, U6). Safe (log 8). -/
  | nibbleOperand
  /-- Raised by the Program Loader for an image over PROG_MAX bytes: no Step ever takes place
  (60_exceptions.md R149; 70_reset_and_hazards.md R172). Safe (log 12). -/
  | loadError
deriving DecidableEq, Repr

/-- Why the model can refuse to go on. -/
inductive Refusal where
  /-- Raised by `exec` for an instruction that has no meaning yet; every instruction has one, so
  nothing raises it. Safe. -/
  | notModelled (mnemonic : String)
deriving DecidableEq, Repr

/-- What a move answers. -/
abbrev Result := Host.Outcome State Fault Refusal

/-- STATUS after reset: running, no cause (10_state.md R23). -/
def Status.reset : Status := ⟨true, .none, 0#16, 0#16⟩

/-- The state right after RESET and before any LOAD (10_state.md R23; 70_reset_and_hazards.md R170),
under the parameters `c`. -/
def resetWith (c : Config) : State where
  cfg := c
  v := Vector.replicate 16 0#8
  i := 0#16
  pc := entryPoint
  stack := List.replicate c.stackDepth 0#16
  sp := 0
  mem := []
  display := Vector.replicate 32 0#64
  dirty := false
  dt := 0#8
  st := 0#8
  status := Status.reset
  keys := 0#16
  draws := 0
  agenda := []

/-- The machine right after reset, the parameters at their defaults (00_scope.md R4). -/
def State.reset : State := resetWith defaultConfig

end Sys2Proof.Machine
end

