-- ==== Sys2Proof/Machine/Ops.lean ====
section
/-! DEFINITION. The named operations over registers, memory and control that every meaning is
written with, and taking a fault (60_exceptions.md R143). -/

namespace Sys2Proof.Machine

/-! ### General registers (10_state.md R10, R11) -/

/-- `V[r]`. -/
def State.getV (s : State) (r : Nib) : Byte := s.v[r.toNat]'r.isLt

/-- `V[r] <- b`. -/
def State.setV (r : Nib) (b : Byte) (s : State) : State := { s with v := s.v.set r.toNat b r.isLt }

/-- The number of VF, the flag register (R11). -/
def flagReg : Nib := 0xF#4

/-! ### The other registers -/

/-- `I <- w` (R12). -/
def State.setI (w : Word) (s : State) : State := { s with i := w }

/-- `pc <- w` (R13). -/
def State.setPc (w : Word) (s : State) : State := { s with pc := w }

/-- `DT <- b` (R17). -/
def State.setDt (b : Byte) (s : State) : State := { s with dt := b }

/-- `ST <- b` (R17). -/
def State.setSt (b : Byte) (s : State) : State := { s with st := b }

/-- `STATUS <- t` (R18). -/
def State.setStatus (t : Status) (s : State) : State := { s with status := t }

/-- The stack entries and SP together (R14). -/
def State.setStack (entries : List Word) (sp : Nat) (s : State) : State :=
  { s with stack := entries, sp := sp }

/-- The pixel array (R15). -/
def State.setDisplay (d : Display) (s : State) : State := { s with display := d }

/-- `DIRTY <- b` (R16). -/
def State.setDirty (b : Bool) (s : State) : State := { s with dirty := b }

/-- The KEY input levels (R22). -/
def State.setKeys (levels : Word) (s : State) : State := { s with keys := levels }

/-- The moves still scheduled (log 3). -/
def State.setAgenda (events : List Event) (s : State) : State := { s with agenda := events }

/-- One more free value has been drawn (log 5). -/
def State.countDraw (s : State) : State := { s with draws := s.draws + 1 }

/-! ### Memory (20_memory.md R33 to R36) -/

/-- `MemRead(a, 1)` (R34). -/
def State.readByte (s : State) (a : Nat) : Byte := s.mem.read s.cfg a

/-- `MemWrite(a, 1, b)` (R35). -/
def State.writeByte (a : Nat) (b : Byte) (s : State) : State :=
  { s with mem := s.mem.write s.cfg a b }

/-- `MemRead(a, 2)`, big-endian (R36); instruction fetch only. -/
def State.readWord (s : State) (a : Nat) : Word := wordOfBytes (s.readByte a) (s.readByte (a + 1))

/-- The bytes `bs` written at `a`, `a + 1`, ... in that order (R37, R39). -/
def State.writeBytes (a : Nat) : List Byte → State → State
  | [], s => s
  | b :: bs, s => State.writeBytes (a + 1) bs (State.writeByte a b s)

/-- Under ADDR_OOR = `fault`: an access of `n` bytes at `a` has an unreduced address, counted from
`a mod 4096`, above 0xFFF (R33). Under `wrap`, never. -/
def rangeFault (c : Config) (a n : Nat) : Bool :=
  decide (c.addrOor = .fault) && decide (memSize < busAddress a + n)

/-! ### Control (30_encoding.md R51; 00_scope.md R8) -/

/-- pc advanced past the instruction (R51). -/
def State.advance (s : State) : State := s.setPc (s.pc + 2#16)

/-- `skip` (R8): pc advanced by one more instruction. -/
def State.skip (s : State) : State := s.setPc (s.pc + 2#16)

/-- Skip if the condition holds. -/
def State.skipIf (cond : Bool) (s : State) : State := if cond then s.skip else s

/-- The address `a` the running instruction was fetched from: pc holds `a + 2` while it executes
(10_state.md R13). DEDUCED (log 13). -/
def State.fetchAddr (s : State) : Word := s.pc - 2#16

/-! ### Taking a fault (60_exceptions.md R140 to R145)

There is no handler and so no return from a fault (R145): the way out is RESET (`restart`,
Machine/Agents.lean). -/

/-- The code of a cause (R141). -/
def Cause.code : Cause → BitVec 3
  | .none => 0#3
  | .decodeError => 1#3
  | .stackOverflow => 2#3
  | .stackUnderflow => 3#3
  | .addressRange => 4#3

/-- STATUS after `raise cause(a, w)` (R143). -/
def haltStatus (cause : Cause) (a w : Word) : Status := ⟨false, cause, a, w⟩

/-- `raise cause(a, w)` (R143): STATUS records the cause and RUN becomes 0; nothing else changes, pc
keeps the value it was advanced to. The halted state is a next state (log 2). -/
def raise (cause : Cause) (a w : Word) (s : State) : Result :=
  .next (s.setStatus (haltStatus cause a w))

/-- `raise` by the running instruction `i`: its fetch address and its word (log 13). -/
def raiseBy (cause : Cause) (i : Instr) (s : State) : Result :=
  raise cause s.fetchAddr (encode i) s

/-! ### The call/return stack (10_state.md R14) -/

/-- `S[SP] <- w; SP <- SP + 1`. -/
def State.push (w : Word) (s : State) : State := s.setStack (s.stack.set s.sp w) (s.sp + 1)

/-- `SP <- SP - 1`; the entry is left as it is (40_control_flow.md R70). -/
def State.pop (s : State) : State := s.setStack s.stack (s.sp - 1)

/-- The entry a return takes: `S[SP - 1]`. -/
def State.topEntry (s : State) : Word := s.stack.getD (s.sp - 1) 0#16

end Sys2Proof.Machine
end

