-- ==== Sys2Proof/Machine/Agents.lean ====
section
/-! DEFINITION. What the Tick and the Host do to the machine (60_exceptions.md R150 to R152, R158;
43_display.md R114; 70_reset_and_hazards.md R170 to R172), and what the Host can read of it. -/

namespace Sys2Proof.Machine

/-! ### The Tick -/

/-- One counter's decrement, saturating at zero (R150). -/
def countDown (b : Byte) : Byte := if b = 0#8 then 0#8 else b - 1#8

/-- One Tick (R150): both timers count down, only while RUN = 1 (decision D22 of the spec). -/
def tick (s : State) : State :=
  if s.status.run then (s.setDt (countDown s.dt)).setSt (countDown s.st) else s

/-! ### What the Host reads -/

/-- TONE = (ST > 0), a level (R152). -/
def tone (s : State) : Bool := decide (0 < s.st.toNat)

/-- The `enabled` argument of `set_tone` in the Tick that starts in `s`: TONE after or before the
decrement (R152, parameter TONE_SAMPLE of the audio collaborator; log 15). -/
def tickTone (s : State) : Bool :=
  match s.cfg.toneSample with
  | .after => tone (tick s)
  | .before => tone s

/-- The pixel `D[y][x]` (43_display.md R112): column 0 is bit 63 of the row. -/
def pixel (d : Display) (y : Fin 32) (x : Fin 64) : Bool := d[y].getMsbD x

/-- FRAME (R114): the whole pixel array. -/
def frame (s : State) : Display := s.display

/-- The Host's snapshot read (R114): it changes nothing but DIRTY, which it clears (decision D13). -/
def snapshot (s : State) : State := s.setDirty false

/-! ### RESET and LOAD -/

/-- LOAD of a program image (R172): its bytes from 0x200 on, unmodified. -/
def loadImage (image : List Byte) (s : State) : State := State.writeBytes loadBase image s

/-- RESET, then LOAD (R170 to R172). An image over PROG_MAX bytes is the loader's LoadError: no Step
ever takes place. The parameters, the KEY levels and the rest of the schedule are not the machine's
state (10_state.md R24) and stay; so does the count of free draws (log 12). -/
def restart (image : List Byte) (s : State) : Result :=
  if progMax < image.length then .fault .loadError
  else .next (loadImage image
    { resetWith s.cfg with keys := s.keys, draws := s.draws, agenda := s.agenda })

/-! ### Where the host of this package places an instruction -/

/-- RUN set where the machine is halted, so that a Step can take place (log 21). -/
def runningStatus (t : Status) : Status := if t.run then t else Status.reset

/-- A schedule whose first move is a Step; an empty one already is (log 3, 21). -/
def stepFirst : List Event → List Event
  | [] => []
  | events => .step :: events

/-- The two bytes of the word `w` placed at pc, big-endian, and the machine made ready to take a Step
there. -/
def placeWord (w : Word) (s : State) : State :=
  ((State.writeBytes s.pc.toNat [highByte w, lowByte w] s).setStatus
    (runningStatus s.status)).setAgenda (stepFirst s.agenda)

end Sys2Proof.Machine
end

