-- ==== Sys2Proof/Machine/Flags.lean ====
section
/-! DEFINITION. The values written to VF (10_state.md R11): always 0 or 1, the whole byte. -/

namespace Sys2Proof.Machine

/-- A condition as the byte 1 or 0. -/
def flagByte (cond : Bool) : Byte := if cond then 1#8 else 0#8

/-- 8XY4 (41_alu.md R86): 1 if the unsigned sum exceeds 255. -/
def carryFlag (a b : Byte) : Byte := flagByte (decide (255 < a.toNat + b.toNat))

/-- 8XY5, 8XY7 (R87, R89), of `a - b`: 0 if `a < b` (borrow), else 1. -/
def notBorrowFlag (a b : Byte) : Byte := flagByte (!decide (a.toNat < b.toNat))

/-- 8XY6 (R88): bit 0, the bit shifted out to the right. -/
def lowBitFlag (b : Byte) : Byte := flagByte (b.getLsbD 0)

/-- 8XYE (R90): bit 7, the bit shifted out to the left. -/
def highBitFlag (b : Byte) : Byte := flagByte (b.getLsbD 7)

/-- DXYN (43_display.md R111): 1 if any pixel went from set to unset in this draw. -/
def collisionFlag (collided : Bool) : Byte := flagByte collided

/-- `VF <- f`. -/
def State.setFlag (f : Byte) (s : State) : State := s.setV flagReg f

end Sys2Proof.Machine
end

