-- ==== Sys2Proof/Machine/Operands.lean ====
section
/-! DEFINITION. Operand forms (30_encoding.md R57; 42_index_memory.md R102, R106; 44_keypad_timer.md
R120, R122). -/

namespace Sys2Proof.Machine

/-- `zext_16(NNN)` (R57). -/
def zextAddr (nnn : Addr) : Word := nnn.setWidth 16

/-- `zext_16` of a byte (R8). -/
def zextByte (b : Byte) : Word := b.setWidth 16

/-- A register number from a count 0..15, for FX55 and FX65. -/
def regOfNat (k : Nat) : Nib := BitVec.ofNat 4 k

/-- The registers FX55 and FX65 move: `V[0]` to `V[X]` inclusive (42_index_memory.md R104, R105). -/
def regCount (x : Nib) : Nat := x.toNat + 1

/-- The bytes of `V[0]` to `V[X]`, in order. -/
def State.regBytes (s : State) (x : Nib) : List Byte :=
  (List.range (regCount x)).map fun k => s.getV (regOfNat k)

/-- `n` bytes read at `a`, `a + 1`, ... -/
def State.bytesFrom (s : State) (a n : Nat) : List Byte :=
  (List.range n).map fun k => s.readByte (a + k)

/-- The registers from number `k` on set to the bytes `bs`, in order. -/
def State.setRegsFrom (k : Nat) : List Byte → State → State
  | [], s => s
  | b :: bs, s => State.setRegsFrom (k + 1) bs (s.setV (regOfNat k) b)

/-- The low nibble of a register value, used as a hex digit or key number (R102, R120; decisions D15,
D16 of the spec). -/
def lowNibble (b : Byte) : Nat := (b &&& 0x0F#8).toNat

/-- Under NIBBLE_OPERAND = `fault`: the value is no hex digit (log 8). Under `mask`, never. -/
def nibbleFault (c : Config) (b : Byte) : Bool :=
  decide (c.nibbleOperand = .fault) && decide (15 < b.toNat)

/-- `font_glyph_address(d) = FONT_BASE + 5 · d`, as 16 bits (R102). -/
def glyphAddress (c : Config) (d : Nat) : Word := BitVec.ofNat 16 (c.fontBase + glyphBytes * d)

/-- `KEY[k]` (44_keypad_timer.md R126). -/
def State.keyDown (s : State) (k : Nat) : Bool := s.keys.getLsbD k

/-- The keys that are down, lowest first. -/
def State.pressedKeys (s : State) : List Nat := (List.range 16).filter fun k => s.keyDown k

/-- The key FX0A reports, if any is down (44_keypad_timer.md R122): the lowest, or under KEY_PRIORITY
= `any` a free choice among those down (93_implementation_defined.md U7; log 6). -/
def State.reportedKey (s : State) : Option Nat :=
  match s.cfg.keyPriority with
  | .lowest => s.pressedKeys.head?
  | .any => s.pressedKeys[Config.pickedKey s.draws % s.pressedKeys.length]?

/-- The state after a key was reported: a free choice counts as a draw. -/
def State.afterKeyChoice (s : State) : State :=
  match s.cfg.keyPriority with
  | .lowest => s
  | .any => s.countDraw

/-- The three decimal digits of a byte, hundreds first (42_index_memory.md R103). -/
def decimalDigits (b : Byte) : List Byte :=
  [BitVec.ofNat 8 (b.toNat / 100), BitVec.ofNat 8 (b.toNat / 10 % 10), BitVec.ofNat 8 (b.toNat % 10)]

end Sys2Proof.Machine
end

