-- ==== Sys2Proof/Machine/Alu.lean ====
section
/-! DEFINITION. Load-immediate, arithmetic, logic, shift and random (41_alu.md R80 to R91).
Statements run in the written order, each seeing the writes before it (00_scope.md R7; decision D10
of the spec; log 16). -/

namespace Sys2Proof.Machine

/-- 6XNN, LD VX, NN (R80). -/
def execLdVxNn (x : Nib) (nn : Byte) (s : State) : Result := .next (s.setV x nn)

/-- 7XNN, ADD VX, NN (R81): modulo 256, VF not written. -/
def execAddVxNn (x : Nib) (nn : Byte) (s : State) : Result := .next (s.setV x (s.getV x + nn))

/-- 8XY0, LD VX, VY (R82). -/
def execLdVxVy (x y : Nib) (s : State) : Result := .next (s.setV x (s.getV y))

/-- 8XY1, OR VX, VY (R83): VF not written. -/
def execOrVxVy (x y : Nib) (s : State) : Result := .next (s.setV x (s.getV x ||| s.getV y))

/-- 8XY2, AND VX, VY (R84): VF not written. -/
def execAndVxVy (x y : Nib) (s : State) : Result := .next (s.setV x (s.getV x &&& s.getV y))

/-- 8XY3, XOR VX, VY (R85): VF not written. -/
def execXorVxVy (x y : Nib) (s : State) : Result := .next (s.setV x (s.getV x ^^^ s.getV y))

/-- `V[X] <- result` and then `V[0xF] <- flag`: both computed from operands latched before, so that
the flag survives when X = 0xF. -/
def State.setResultThenFlag (x : Nib) (result flag : Byte) (s : State) : State :=
  (s.setV x result).setFlag flag

/-- 8XY4, ADD VX, VY (R86). -/
def execAddVxVy (x y : Nib) (s : State) : Result :=
  .next (s.setResultThenFlag x (s.getV x + s.getV y) (carryFlag (s.getV x) (s.getV y)))

/-- 8XY5, SUB VX, VY (R87). -/
def execSubVxVy (x y : Nib) (s : State) : Result :=
  .next (s.setResultThenFlag x (s.getV x - s.getV y) (notBorrowFlag (s.getV x) (s.getV y)))

/-- 8XY7, SUBN VX, VY (R89). -/
def execSubnVxVy (x y : Nib) (s : State) : Result :=
  .next (s.setResultThenFlag x (s.getV y - s.getV x) (notBorrowFlag (s.getV y) (s.getV x)))

/-- `V[Y] <- f(V[Y])`. -/
def State.mapV (y : Nib) (f : Byte → Byte) (s : State) : State := s.setV y (f (s.getV y))

/-- `V[X] <- V[Y]`. -/
def State.copyV (x y : Nib) (s : State) : State := s.setV x (s.getV y)

/-- 8XY6, SHR VX, VY (R88): the three statements in order, each seeing the writes before it. -/
def execShrVxVy (x y : Nib) (s : State) : Result :=
  .next (((s.setFlag (lowBitFlag (s.getV y))).mapV y (fun b => b >>> 1)).copyV x y)

/-- 8XYE, SHL VX, VY (R90): the three statements in order, each seeing the writes before it. -/
def execShlVxVy (x y : Nib) (s : State) : Result :=
  .next (((s.setFlag (highBitFlag (s.getV y))).mapV y (fun b => b <<< 1)).copyV x y)

/-- `V[X] <- rnd & NN` for the random byte `rnd` (R91). -/
def State.setRandom (x : Nib) (nn rnd : Byte) (s : State) : State := s.setV x (rnd &&& nn)

/-- CXNN, RND VX, NN (R91): `rnd` is drawn afresh, a free value (log 5). -/
def execRndVxNn (x : Nib) (nn : Byte) (s : State) : Result :=
  .next (s.countDraw.setRandom x nn (Config.randomByte s.draws))

end Sys2Proof.Machine
end

