-- ==== Sys2Proof/Machine/Control.lean ====
section
/-! DEFINITION. Control flow (40_control_flow.md R70 to R77). On entry pc has been advanced past the
instruction (30_encoding.md R51). -/

namespace Sys2Proof.Machine

/-- 00EE, RET (R70). The check precedes every write; the full 16-bit entry goes to pc. -/
def execRet (s : State) : Result :=
  if s.sp = 0 then raiseBy .stackUnderflow .ret s
  else .next (s.pop.setPc s.topEntry)

/-- 1NNN, JP (R71). -/
def execJpNnn (nnn : Addr) (s : State) : Result := .next (s.setPc (zextAddr nnn))

/-- 2NNN, CALL (R72): the advanced pc is pushed. SP never exceeds STACK_DEPTH (10_state.md R14), so
`≤` here is R72's `=` (log 14). -/
def execCallNnn (nnn : Addr) (s : State) : Result :=
  if s.cfg.stackDepth ≤ s.sp then raiseBy .stackOverflow (.callNnn nnn) s
  else .next ((s.push s.pc).setPc (zextAddr nnn))

/-- 3XNN, SE VX, NN (R73). -/
def execSeVxNn (x : Nib) (nn : Byte) (s : State) : Result := .next (s.skipIf (s.getV x == nn))

/-- 4XNN, SNE VX, NN (R74). -/
def execSneVxNn (x : Nib) (nn : Byte) (s : State) : Result := .next (s.skipIf (s.getV x != nn))

/-- 5XY0, SE VX, VY (R75). -/
def execSeVxVy (x y : Nib) (s : State) : Result := .next (s.skipIf (s.getV x == s.getV y))

/-- 9XY0, SNE VX, VY (R76). -/
def execSneVxVy (x y : Nib) (s : State) : Result := .next (s.skipIf (s.getV x != s.getV y))

/-- BNNN, JP V0, NNN (R77): a 16-bit sum, not reduced to 12 bits. -/
def execJpV0Nnn (nnn : Addr) (s : State) : Result :=
  .next (s.setPc (zextAddr nnn + zextByte (s.getV 0x0#4)))

end Sys2Proof.Machine
end

