-- ==== Sys2Proof/Machine/DisplayOps.lean ====
section
/-! DEFINITION. The display instructions, the compositor and the collision detector (43_display.md
R110 to R113). -/

namespace Sys2Proof.Machine

/-- The row with only column `x` set: column 0 is bit 63 (R112). -/
def columnBit (x : Fin 64) : BitVec 64 := 1#64 <<< (63 - x.val)

/-- The pixel array with one pixel toggled. -/
def togglePixel (d : Display) (y : Fin 32) (x : Fin 64) : Display := d.set y (d[y] ^^^ columnBit x)

/-- The pixel array during a draw, and whether a pixel has gone from set to unset in it. -/
abbrev Canvas := Display × Bool

/-- `set_pixel(x, y)` (R113), its returned bit ORed into the collision detector. -/
def setPixel (y : Fin 32) (x : Fin 64) (c : Canvas) : Canvas :=
  (togglePixel c.1 y x, c.2 || pixel c.1 y x)

/-- The pixel a sprite bit at column `px`, row `py` falls on (R111): reduced modulo the grid, or none
outside it. -/
def target (e : DrawEdge) (py px : Nat) : Option (Fin 32 × Fin 64) :=
  match e with
  | .wrap => some (Fin.ofNat 32 py, Fin.ofNat 64 px)
  | .clip => if px < 64 ∧ py < 32 then some (Fin.ofNat 32 py, Fin.ofNat 64 px) else none

/-- One set sprite bit at column `px`, row `py` (R111). -/
def plot (e : DrawEdge) (py px : Nat) (c : Canvas) : Canvas :=
  match target e py px with
  | some p => setPixel p.1 p.2 c
  | none => c

/-- The columns of one sprite row from `col` on, `left` of them left: bit 7 - col is column col (R112). -/
def drawBits (e : DrawEdge) (py x0 : Nat) (b : Byte) : Nat → Nat → Canvas → Canvas
  | _, 0, c => c
  | col, left + 1, c =>
    drawBits e py x0 b (col + 1) left (if b.getMsbD col then plot e py (x0 + col) c else c)

/-- The sprite rows `bs`, the first at row `py` (R111). -/
def drawRows (e : DrawEdge) (x0 : Nat) : Nat → List Byte → Canvas → Canvas
  | _, [], c => c
  | py, b :: bs, c => drawRows e x0 (py + 1) bs (drawBits e py x0 b 0 8 c)

/-- 00E0, CLS (R110). -/
def execCls (s : State) : Result := .next ((s.setDisplay (Vector.replicate 32 0#64)).setDirty true)

/-- The canvas after drawing the `n` sprite bytes at I with V[X], V[Y] as column and row: both are
latched before VF is written (R111; decision D11 of the spec; log 16). -/
def spriteCanvas (x y n : Nib) (s : State) : Canvas :=
  drawRows s.cfg.drawEdge (s.getV x).toNat (s.getV y).toNat (s.bytesFrom s.i.toNat n.toNat)
    (s.display, false)

/-- DXYN, DRW VX, VY, N (R111): VF is 0, or 1 if any pixel went from set to unset. -/
def execDrwVxVyN (x y n : Nib) (s : State) : Result :=
  if rangeFault s.cfg s.i.toNat n.toNat then raiseBy .addressRange (.drwVxVyN x y n) s
  else
    .next (((s.setDisplay (spriteCanvas x y n s).1).setFlag
      (collisionFlag (spriteCanvas x y n s).2)).setDirty true)

end Sys2Proof.Machine
end

