-- ==== Sys2Proof/Machine/IndexMemory.lean ====
section
/-! DEFINITION. The address register and memory instructions (42_index_memory.md R100 to R105).
Under ADDR_OOR = `fault` an AddressRange is raised before the instruction writes anything
(60_exceptions.md R142). -/

namespace Sys2Proof.Machine

/-- ANNN, LD I, NNN (R100). -/
def execLdINnn (nnn : Addr) (s : State) : Result := .next (s.setI (zextAddr nnn))

/-- FX1E, ADD I, VX (R101): modulo 65536, VF not written. -/
def execAddIVx (x : Nib) (s : State) : Result := .next (s.setI (s.i + zextByte (s.getV x)))

/-- FX29, LD F, VX (R102): the low nibble is the digit (decision D15 of the spec; log 8). -/
def execLdFVx (x : Nib) (s : State) : Result :=
  if nibbleFault s.cfg (s.getV x) then .fault .nibbleOperand
  else .next (s.setI (glyphAddress s.cfg (lowNibble (s.getV x))))

/-- The store of the bytes `bs` at I, by the instruction `i`: an access of that many bytes (R106). -/
def storeAtI (i : Instr) (bs : List Byte) (s : State) : Result :=
  if rangeFault s.cfg s.i.toNat bs.length then raiseBy .addressRange i s
  else .next (State.writeBytes s.i.toNat bs s)

/-- FX33, LD B, VX (R103): hundreds, tens and ones at I, I + 1, I + 2. -/
def execLdBVx (x : Nib) (s : State) : Result := storeAtI (.ldBVx x) (decimalDigits (s.getV x)) s

/-- FX55, LD [I], VX (R104): V[0] to V[X] at I, I + 1, ...; I is not modified. -/
def execLdMemVx (x : Nib) (s : State) : Result := storeAtI (.ldMemVx x) (s.regBytes x) s

/-- FX65, LD VX, [I] (R105): V[0] to V[X] from I, I + 1, ...; I is not modified. -/
def execLdVxMem (x : Nib) (s : State) : Result :=
  if rangeFault s.cfg s.i.toNat (regCount x) then raiseBy .addressRange (.ldVxMem x) s
  else .next (State.setRegsFrom 0 (s.bytesFrom s.i.toNat (regCount x)) s)

end Sys2Proof.Machine
end

