-- ==== Sys2Proof/Machine/KeyTimer.lean ====
section
/-! DEFINITION. The keypad and timer instructions (44_keypad_timer.md R120 to R126). -/

namespace Sys2Proof.Machine

/-- Skip if the key named by V[X] is at the level `level` (R120, R121; decision D16 of the spec;
log 8). -/
def skipOnKey (x : Nib) (level : Bool) (s : State) : Result :=
  if nibbleFault s.cfg (s.getV x) then .fault .nibbleOperand
  else .next (s.skipIf (s.keyDown (lowNibble (s.getV x)) == level))

/-- EX9E, SKP VX (R120). -/
def execSkpVx (x : Nib) (s : State) : Result := skipOnKey x true s

/-- EXA1, SKNP VX (R121). -/
def execSknpVx (x : Nib) (s : State) : Result := skipOnKey x false s

/-- FX0A, LD VX, K (R122): with no key down the advance is undone and nothing else changes; else the
key's number goes to V[X]. -/
def execLdVxK (x : Nib) (s : State) : Result :=
  match s.reportedKey with
  | none => .next (s.setPc s.fetchAddr)
  | some k => .next (s.afterKeyChoice.setV x (BitVec.ofNat 8 k))

/-- FX07, LD VX, DT (R123). -/
def execLdVxDt (x : Nib) (s : State) : Result := .next (s.setV x s.dt)

/-- FX15, LD DT, VX (R124). -/
def execLdDtVx (x : Nib) (s : State) : Result := .next (s.setDt (s.getV x))

/-- FX18, LD ST, VX (R125). -/
def execLdStVx (x : Nib) (s : State) : Result := .next (s.setSt (s.getV x))

end Sys2Proof.Machine
end

