-- ==== Sys2Proof/Machine/Cycle.lean ====
section
/-! DEFINITION. The instruction cycle (30_encoding.md R50 to R53) and whose move it is (00_scope.md
R5, R6). -/

namespace Sys2Proof.Machine

/-- The word at pc (R50). -/
def State.fetchWord (s : State) : Word := s.readWord s.pc.toNat

/-- The fetch's own AddressRange under ADDR_OOR = `fault` (60_exceptions.md R142: it precedes decode).
pc is at `a + 2` after any fault (10_state.md R13); FAULT_WORD is a free value (log 7). -/
def raiseFetchRange (s : State) : Result :=
  raise .addressRange s.pc (Config.fetchFaultWord s.draws) s.advance.countDraw

/-- One Step (R50 to R53): fetch, advance, decode, execute. While RUN = 0 no Step takes place
(60_exceptions.md R144). -/
def instructionCycle (s : State) : Result :=
  if s.status.run then
    if rangeFault s.cfg s.pc.toNat 2 then raiseFetchRange s
    else
      match decode s.fetchWord with
      | some i => exec i s.advance
      | none => raise .decodeError s.pc s.fetchWord s.advance
  else .fault (.halted s.status.cause)

/-- One scheduled move. -/
def takeEvent (e : Event) (s : State) : Result :=
  match e with
  | .step => instructionCycle s
  | .tick => .next (tick s)
  | .keys levels => .next (s.setKeys levels)
  | .snapshot => .next (snapshot s)
  | .restart image => restart image s

/-- One move of the machine: the first scheduled event, or a Step when nothing is scheduled (log 3). -/
def machineMove (s : State) : Result :=
  match s.agenda with
  | [] => instructionCycle s
  | e :: rest => takeEvent e (s.setAgenda rest)

end Sys2Proof.Machine
end

