-- ==== Sys2Proof/Machine/Step.lean ====
section
/-! DEFINITION. The step function: one move of the machine (Machine/Cycle.lean), and where the next
instruction is placed. -/

namespace Sys2Proof.Machine

/-- One move: the next scheduled event, or one instruction cycle. -/
def step (s : State) : Host.Outcome State Fault Refusal := machineMove s

/-- The instruction word `w` of a table row, its bits above `nbits` 0, placed where the next Step
fetches (log 21). -/
def State.withFetchWord (s : State) (nbits w : Nat) : State := placeWord (tableWord nbits w) s

end Sys2Proof.Machine
end

