-- ==== Sys2Proof/Safety.lean ====
section
/-! DEFINITION. The terms claims use: which parts of the state a move leaves alone, the invariant,
whose turn it is, what each instruction may write, and a safe move. -/

namespace Sys2Proof.Machine

/-! ### Parts of the state, and leaving them alone -/

/-- The parts of the state (10_state.md, its tuple; the model's own fields last). -/
inductive Part where
  | v
  | i
  | pc
  | stack
  | mem
  | display
  | dirty
  | dt
  | st
  | status
  | keys
  | draws
  | agenda
  | cfg
deriving DecidableEq, Repr

/-- `t` has the part `p` as `s` has it: every register and every byte of memory reads the same, every
other part is equal. -/
def agreeOn (s t : State) : Part → Prop
  | .v => ∀ r, t.getV r = s.getV r
  | .i => t.i = s.i
  | .pc => t.pc = s.pc
  | .stack => t.stack = s.stack ∧ t.sp = s.sp
  | .mem => ∀ a, t.readByte a = s.readByte a
  | .display => t.display = s.display
  | .dirty => t.dirty = s.dirty
  | .dt => t.dt = s.dt
  | .st => t.st = s.st
  | .status => t.status = s.status
  | .keys => t.keys = s.keys
  | .draws => t.draws = s.draws
  | .agenda => t.agenda = s.agenda
  | .cfg => t.cfg = s.cfg

/-- Every part but those listed is left alone. -/
def SameExcept (changed : List Part) (s t : State) : Prop := ∀ p, p ∉ changed → agreeOn s t p

/-- Every register but those listed is left alone. -/
def SameRegsExcept (changed : List Nib) (s t : State) : Prop :=
  ∀ r, r ∉ changed → t.getV r = s.getV r

/-! ### The invariant -/

/-- What every step keeps: memory in its canonical form, the stack of STACK_DEPTH entries with
0 ≤ SP ≤ STACK_DEPTH (10_state.md R14), CAUSE none exactly while running (R18; 60_exceptions.md R143),
and AddressRange only under ADDR_OOR = `fault` (R140). -/
abbrev State.Inv (s : State) : Prop :=
  s.mem.wf s.cfg = true ∧ s.stack.length = s.cfg.stackDepth ∧ s.sp ≤ s.cfg.stackDepth ∧
    (s.status.run = true ↔ s.status.cause = .none) ∧
    (s.status.cause = .addressRange → s.cfg.addrOor = .fault)

/-! ### Whose turn it is -/

/-- The next move is a Step and leaves the schedule `rest`. -/
def stepTurn (agenda rest : List Event) : Prop :=
  (agenda = [] ∧ rest = []) ∨ agenda = .step :: rest

/-! ### What an instruction may write (10_state.md R10 to R21) -/

/-- The parts an instruction may change, the status where it can raise a fault (60_exceptions.md
R140). pc is listed for the instructions that change it past the advance (10_state.md R13). -/
def mayWrite : Instr → List Part
  | .cls => [.display, .dirty]
  | .ret | .callNnn _ => [.pc, .stack, .status]
  | .jpNnn _ | .jpV0Nnn _ | .seVxNn _ _ | .sneVxNn _ _ | .seVxVy _ _ | .sneVxVy _ _ | .skpVx _
  | .sknpVx _ => [.pc]
  | .ldVxNn _ _ | .addVxNn _ _ | .ldVxVy _ _ | .orVxVy _ _ | .andVxVy _ _ | .xorVxVy _ _
  | .addVxVy _ _ | .subVxVy _ _ | .shrVxVy _ _ | .subnVxVy _ _ | .shlVxVy _ _ | .ldVxDt _ => [.v]
  | .rndVxNn _ _ => [.v, .draws]
  | .ldVxK _ => [.v, .pc, .draws]
  | .ldINnn _ | .addIVx _ | .ldFVx _ => [.i]
  | .drwVxVyN _ _ _ => [.v, .display, .dirty, .status]
  | .ldDtVx _ => [.dt]
  | .ldStVx _ => [.st]
  | .ldBVx _ | .ldMemVx _ => [.mem, .status]
  | .ldVxMem _ => [.v, .status]

/-- The instruction may write the register `r` (10_state.md R10, its table). -/
def mayWriteReg (r : Nib) : Instr → Prop
  | .ldVxNn x _ | .addVxNn x _ | .rndVxNn x _ | .ldVxDt x | .ldVxK x => r = x
  | .ldVxVy x _ | .orVxVy x _ | .andVxVy x _ | .xorVxVy x _ => r = x
  | .addVxVy x _ | .subVxVy x _ | .subnVxVy x _ => r = x ∨ r = 0xF#4
  | .shrVxVy x y | .shlVxVy x y => r = x ∨ r = y ∨ r = 0xF#4
  | .drwVxVyN _ _ _ => r = 0xF#4
  | .ldVxMem x => r.toNat ≤ x.toNat
  | .cls | .ret | .jpNnn _ | .callNnn _ | .seVxNn _ _ | .sneVxNn _ _ | .seVxVy _ _ | .sneVxVy _ _
  | .ldINnn _ | .jpV0Nnn _ | .skpVx _ | .sknpVx _ | .ldDtVx _ | .ldStVx _ | .addIVx _ | .ldFVx _
  | .ldBVx _ | .ldMemVx _ => False

/-- The instruction reads or writes a timer: FX07, FX15, FX18 only (10_state.md R17). -/
def touchesTimer : Instr → Bool
  | .ldVxDt _ | .ldDtVx _ | .ldStVx _ => true
  | .cls | .ret | .jpNnn _ | .callNnn _ | .seVxNn _ _ | .sneVxNn _ _ | .seVxVy _ _ | .sneVxVy _ _
  | .ldVxNn _ _ | .addVxNn _ _ | .ldVxVy _ _ | .orVxVy _ _ | .andVxVy _ _ | .xorVxVy _ _
  | .addVxVy _ _ | .subVxVy _ _ | .shrVxVy _ _ | .subnVxVy _ _ | .shlVxVy _ _ | .ldINnn _
  | .jpV0Nnn _ | .rndVxNn _ _ | .drwVxVyN _ _ _ | .skpVx _ | .sknpVx _ | .ldVxK _ | .addIVx _
  | .ldFVx _ | .ldBVx _ | .ldMemVx _ | .ldVxMem _ => false

/-- The bytes of memory an instruction accesses through I: their number (20_memory.md R30, R39). -/
def accessBytes : Instr → Nat
  | .drwVxVyN _ _ n => n.toNat
  | .ldBVx _ => 3
  | .ldMemVx x | .ldVxMem x => x.toNat + 1
  | .cls | .ret | .jpNnn _ | .callNnn _ | .seVxNn _ _ | .sneVxNn _ _ | .seVxVy _ _ | .sneVxVy _ _
  | .ldVxNn _ _ | .addVxNn _ _ | .ldVxVy _ _ | .orVxVy _ _ | .andVxVy _ _ | .xorVxVy _ _
  | .addVxVy _ _ | .subVxVy _ _ | .shrVxVy _ _ | .subnVxVy _ _ | .shlVxVy _ _ | .ldINnn _
  | .jpV0Nnn _ | .rndVxNn _ _ | .skpVx _ | .sknpVx _ | .ldVxK _ | .addIVx _ | .ldFVx _ | .ldVxDt _
  | .ldDtVx _ | .ldStVx _ => 0

/-- The register value an instruction uses as a hex digit or key number (42_index_memory.md R102;
44_keypad_timer.md R120, R121). -/
def nibbleOperandOf (s : State) : Instr → Option Byte
  | .ldFVx x | .skpVx x | .sknpVx x => some (s.getV x)
  | .cls | .ret | .jpNnn _ | .callNnn _ | .seVxNn _ _ | .sneVxNn _ _ | .seVxVy _ _ | .sneVxVy _ _
  | .ldVxNn _ _ | .addVxNn _ _ | .ldVxVy _ _ | .orVxVy _ _ | .andVxVy _ _ | .xorVxVy _ _
  | .addVxVy _ _ | .subVxVy _ _ | .shrVxVy _ _ | .subnVxVy _ _ | .shlVxVy _ _ | .ldINnn _
  | .jpV0Nnn _ | .rndVxNn _ _ | .drwVxVyN _ _ _ | .ldVxK _ | .addIVx _ | .ldBVx _ | .ldMemVx _
  | .ldVxMem _ | .ldVxDt _ | .ldDtVx _ | .ldStVx _ => none

/-! ### Where a sprite lands (43_display.md R111), without the draw loop -/

/-- A sprite bit at column `px`, row `py` falls on the pixel in row `row`, column `col`. -/
def landsOn (e : DrawEdge) (py px : Nat) (row : Fin 32) (col : Fin 64) : Prop :=
  match e with
  | .wrap => py % 32 = row.val ∧ px % 64 = col.val
  | .clip => py = row.val ∧ px = col.val

/-- DXYN run in `s` flips the pixel in row `row`, column `col`: some set bit of the sprite at I lands
on it. -/
def spriteCovers (s : State) (x y n : Nib) (row : Fin 32) (col : Fin 64) : Prop :=
  ∃ r c : Nat, r < n.toNat ∧ c < 8 ∧ (s.readByte (s.i.toNat + r)).getLsbD (7 - c) = true ∧
    landsOn s.cfg.drawEdge ((s.getV y).toNat + r) ((s.getV x).toNat + c) row col

/-! ### Bits no program can observe (10_state.md R21 (d), (e)) -/

/-- The same 12-bit address. -/
def sameLow12 (a b : Word) : Prop := a.toNat % 4096 = b.toNat % 4096

/-- The states differ at most in bits 15 to 12 of I, pc, the stack entries and FAULT_PC, and in DIRTY. -/
def AgreeBelowBit12 (s t : State) : Prop :=
  SameExcept [.i, .pc, .stack, .dirty, .status] s t ∧ sameLow12 s.i t.i ∧ sameLow12 s.pc t.pc ∧
    t.sp = s.sp ∧ t.stack.length = s.stack.length ∧
    (∀ k, sameLow12 (s.stack.getD k 0#16) (t.stack.getD k 0#16)) ∧
    t.status.run = s.status.run ∧ t.status.cause = s.status.cause ∧
    t.status.faultWord = s.status.faultWord ∧ sameLow12 s.status.faultPc t.status.faultPc

/-! ### Safe moves -/

/-- A move from `s` is safe: it stops on no fault and no refusal and leaves the machine running
(60_exceptions.md R144: a halted state is never a successful end). -/
def SafeMove (s : State) : Prop := ∃ t, step s = .next t ∧ t.status.run = true

end Sys2Proof.Machine
end

