-- ==== Sys2Proof/Certificates/Slice0/Obligations.lean ====
section
/-! DEFINITION. The statements about the machine, from the numbered rules of spec/. `exec i s` is the
execute phase: in `s`, pc is already advanced past the instruction (30_encoding.md R51). A docstring
names the decision (D<n> of 92_eei_decisions.md) or log entry of every clause that is not the source's.
No statement rests on a value of a free constant of Config or of `draws`. -/

open Sys2Proof Sys2Proof.Machine

/-! ### Encoding -/

/-- Words written out from the patterns of 30_encoding.md R56, one or more of each family, and three
illegal ones (R58). -/
def Obligations.SpecWordsDecode : Prop :=
  decode 0x00E0#16 = some .cls ∧ decode 0x00EE#16 = some .ret ∧
  decode 0x2ABC#16 = some (.callNnn 0xABC#12) ∧ decode 0x9340#16 = some (.sneVxVy 0x3#4 0x4#4) ∧
  decode 0x61FF#16 = some (.ldVxNn 0x1#4 0xFF#8) ∧ decode 0x8F2E#16 = some (.shlVxVy 0xF#4 0x2#4) ∧
  decode 0xA123#16 = some (.ldINnn 0x123#12) ∧ decode 0xF255#16 = some (.ldMemVx 0x2#4) ∧
  decode 0xD125#16 = some (.drwVxVyN 0x1#4 0x2#4 0x5#4) ∧ decode 0xE5A1#16 = some (.sknpVx 0x5#4) ∧
  decode 0xF30A#16 = some (.ldVxK 0x3#4) ∧
  decode 0x0000#16 = none ∧ decode 0x5121#16 = none ∧ decode 0x812F#16 = none

/-- Decode and encode agree on every instruction, with every operand at every value its field admits,
as a word and as the two bytes memory stores. -/
def Obligations.DecodeOfEncode : Prop :=
  ∀ (i : Instr) (rest : List Byte),
    decode (encode i) = some i ∧ decodeBytes (encodeBytes i ++ rest) = .instr i rest

/-- A word that decodes is the word of its instruction and matches that instruction's mask and match
(30_encoding.md R56): each word has one meaning. -/
def Obligations.EncodeOfDecode : Prop :=
  ∀ (w : Word) (i : Instr), decode w = some i → encode i = w ∧ matchesRow w (rowOf i)

/-- The decoder refuses exactly the words that match no (mask, match) pair of 30_encoding.md R56
(R58; decision D8: every fixed nibble is compared). -/
def Obligations.DecodeRefusesExactlyUnmatchedWords : Prop :=
  ∀ w : Word, decode w = none ↔ ∀ row ∈ opcodeRows, ¬ matchesRow w row

/-- The 34 patterns are pairwise disjoint: no word matches two of them (30_encoding.md R52). -/
def Obligations.OpcodePatternsDisjoint : Prop :=
  ∀ (w : Word) (row row' : Word × Word), row ∈ opcodeRows → row' ∈ opcodeRows →
    matchesRow w row → matchesRow w row' → row = row'

/-! ### The instruction cycle -/

/-- When it is a Step's turn in a running machine and the two bytes at pc (high byte first, addresses
modulo 4096) decode to `i`, the step is `exec i` with pc advanced by 2 and the Step taken off the
schedule. The premise on `rangeFault` holds always under ADDR_OOR = `wrap`. -/
def Obligations.StepRunsDecodedInstruction : Prop :=
  ∀ (s : State) (i : Instr) (rest : List Event),
    s.status.run = true → rangeFault s.cfg s.pc.toNat 2 = false → stepTurn s.agenda rest →
    decode (wordOfBytes (s.readByte s.pc.toNat) (s.readByte (s.pc.toNat + 1))) = some i →
    step s = exec i ((s.setAgenda rest).setPc (s.pc + 2#16))

/-- A fetched word that matches no pattern raises DecodeError: STATUS records cause 1, the fetch
address and the word, RUN is 0, pc is advanced, and nothing else changes (30_encoding.md R58,
60_exceptions.md R143; the STATUS fields are decision D9). -/
def Obligations.IllegalWordHaltsWithDecodeError : Prop :=
  ∀ (s : State) (rest : List Event),
    s.status.run = true → rangeFault s.cfg s.pc.toNat 2 = false → stepTurn s.agenda rest →
    (∀ row ∈ opcodeRows,
      ¬ matchesRow (wordOfBytes (s.readByte s.pc.toNat) (s.readByte (s.pc.toNat + 1))) row) →
    ∃ t, step s = .next t ∧ t.pc = s.pc + 2#16 ∧ t.agenda = rest ∧
      t.status = ⟨false, .decodeError, s.pc,
        wordOfBytes (s.readByte s.pc.toNat) (s.readByte (s.pc.toNat + 1))⟩ ∧
      SameExcept [.pc, .status, .agenda] s t

/-- While STATUS.RUN = 0 no Step takes place (30_encoding.md R53): a Step's turn ends the run in the
fault `halted` with the recorded cause, whatever lies at pc (60_exceptions.md R144; log 2). -/
def Obligations.HaltedMachineTakesNoStep : Prop :=
  ∀ (s : State) (rest : List Event), s.status.run = false → stepTurn s.agenda rest →
    step s = .fault (.halted s.status.cause)

/-- Under ADDR_OOR = `fault` a fetch whose second byte lies above 0xFFF raises AddressRange before
decode; FAULT_WORD is left free by the spec and is not stated (60_exceptions.md R140, R142; log 7). -/
def Obligations.FetchPastTopHaltsUnderFault : Prop :=
  ∀ (s : State) (rest : List Event),
    s.status.run = true → s.cfg.addrOor = .fault → s.pc.toNat % 4096 = 0xFFF →
    stepTurn s.agenda rest →
    ∃ t, step s = .next t ∧ t.pc = s.pc + 2#16 ∧ t.agenda = rest ∧ t.status.run = false ∧
      t.status.cause = .addressRange ∧ t.status.faultPc = s.pc ∧
      SameExcept [.pc, .status, .agenda, .draws] s t

/-! ### Control flow (40_control_flow.md) -/

/-- R71, 1NNN: pc becomes NNN, whatever its parity, and nothing else changes. -/
def Obligations.JumpSetsPcToImmediate : Prop :=
  ∀ (nnn : Addr) (s : State),
    decode (0x1#4 ++ nnn) = some (.jpNnn nnn) ∧
    ∃ t, exec (.jpNnn nnn) s = .next t ∧ t.pc.toNat = nnn.toNat ∧ SameExcept [.pc] s t

/-- 2NNN with room on the stack: the advanced pc goes to S[SP], SP rises by one, pc becomes NNN, the
other entries and everything else stay. -/
def Obligations.CallPushesAdvancedPc : Prop :=
  ∀ (nnn : Addr) (s : State), s.stack.length = s.cfg.stackDepth → s.sp < s.cfg.stackDepth →
    ∃ t, exec (.callNnn nnn) s = .next t ∧ t.pc.toNat = nnn.toNat ∧ t.sp = s.sp + 1 ∧
      t.stack.length = s.stack.length ∧ t.stack[s.sp]? = some s.pc ∧
      (∀ k, k ≠ s.sp → t.stack[k]? = s.stack[k]?) ∧ SameExcept [.pc, .stack] s t

/-- 2NNN with SP = STACK_DEPTH raises StackOverflow: cause 2, the fetch address (two below pc) and the
word; nothing else changes (decision D9). -/
def Obligations.CallOnFullStackHalts : Prop :=
  ∀ (nnn : Addr) (s : State), s.sp = s.cfg.stackDepth →
    ∃ t, exec (.callNnn nnn) s = .next t ∧
      t.status = ⟨false, .stackOverflow, s.pc - 2#16, 0x2#4 ++ nnn⟩ ∧ SameExcept [.status] s t

/-- 00EE with an entry in use: SP falls by one, pc becomes that entry, all 16 bits of it, and the
entries stay as they are. -/
def Obligations.ReturnPopsPc : Prop :=
  ∀ (s : State) (e : Word), 0 < s.sp → s.stack[s.sp - 1]? = some e →
    ∃ t, exec .ret s = .next t ∧ t.pc = e ∧ t.sp = s.sp - 1 ∧ t.stack = s.stack ∧
      SameExcept [.pc, .stack] s t

/-- 00EE with SP = 0 raises StackUnderflow: cause 3, the fetch address and 0x00EE; nothing else
changes (decision D9). -/
def Obligations.ReturnOnEmptyStackHalts : Prop :=
  ∀ s : State, s.sp = 0 →
    ∃ t, exec .ret s = .next t ∧ t.status = ⟨false, .stackUnderflow, s.pc - 2#16, 0x00EE#16⟩ ∧
      SameExcept [.status] s t

/-- A call followed by a return, wherever the callee has got to, restores pc to the instruction after
the call, restores SP, and changes at most the dead entry S[SP] (95_test_vectors.md S6). -/
def Obligations.ReturnUndoesCall : Prop :=
  ∀ (nnn : Addr) (s : State) (p : Word),
    s.stack.length = s.cfg.stackDepth → s.sp < s.cfg.stackDepth →
    ∃ t u, exec (.callNnn nnn) s = .next t ∧ exec .ret (t.setPc p) = .next u ∧
      u.pc = s.pc ∧ u.sp = s.sp ∧ (∀ k, k ≠ s.sp → u.stack[k]? = s.stack[k]?) ∧
      SameExcept [.stack] s u

/-- R73, 3XNN, and R74, 4XNN: pc advances by 2 more exactly when V[X] = NN, when V[X] ≠ NN; nothing
else changes. -/
def Obligations.SkipOnImmediate : Prop :=
  ∀ (x : Nib) (nn : Byte) (s : State),
    decode ((0x3#4 ++ x : BitVec 8) ++ nn) = some (.seVxNn x nn) ∧
    decode ((0x4#4 ++ x : BitVec 8) ++ nn) = some (.sneVxNn x nn) ∧
    (∃ t, exec (.seVxNn x nn) s = .next t ∧
      t.pc = (if s.getV x = nn then s.pc + 2#16 else s.pc) ∧ SameExcept [.pc] s t) ∧
    (∃ t, exec (.sneVxNn x nn) s = .next t ∧
      t.pc = (if s.getV x = nn then s.pc else s.pc + 2#16) ∧ SameExcept [.pc] s t)

/-- 5XY0 and 9XY0 (R75, R76): pc advances by 2 more exactly when V[X] = V[Y], when V[X] ≠ V[Y];
nothing else changes; with a last nibble other than 0 neither word is an instruction (decision D8, all
fixed nibbles are compared; log 18). -/
def Obligations.SkipOnRegisters : Prop :=
  ∀ (x y : Nib) (s : State),
    decode (((0x5#4 ++ x : BitVec 8) ++ y : BitVec 12) ++ 0#4) = some (.seVxVy x y) ∧
    decode (((0x9#4 ++ x : BitVec 8) ++ y : BitVec 12) ++ 0#4) = some (.sneVxVy x y) ∧
    (∀ n : Nib, n ≠ 0#4 → decode (((0x5#4 ++ x : BitVec 8) ++ y : BitVec 12) ++ n) = none ∧
      decode (((0x9#4 ++ x : BitVec 8) ++ y : BitVec 12) ++ n) = none) ∧
    (∃ t, exec (.seVxVy x y) s = .next t ∧
      t.pc = (if s.getV x = s.getV y then s.pc + 2#16 else s.pc) ∧ SameExcept [.pc] s t) ∧
    (∃ t, exec (.sneVxVy x y) s = .next t ∧
      t.pc = (if s.getV x = s.getV y then s.pc else s.pc + 2#16) ∧ SameExcept [.pc] s t)

/-- BNNN: pc becomes NNN + V[0], not reduced to 12 bits; nothing else changes. -/
def Obligations.JumpWithOffsetAddsV0 : Prop :=
  ∀ (nnn : Addr) (s : State),
    ∃ t, exec (.jpV0Nnn nnn) s = .next t ∧ t.pc.toNat = nnn.toNat + (s.getV 0#4).toNat ∧
      SameExcept [.pc] s t

/-! ### Arithmetic and logic (41_alu.md) -/

/-- R80, 6XNN, and R82, 8XY0: V[X] becomes NN, becomes V[Y]; no other register, no flag, nothing else
changes; and a Step of a 6XNN leaves pc exactly 2 past its value before the fetch, with V[X] = NN. -/
def Obligations.LoadImmediateAndCopy : Prop :=
  ∀ (x y : Nib) (nn : Byte) (s : State),
    decode ((0x6#4 ++ x : BitVec 8) ++ nn) = some (.ldVxNn x nn) ∧
    decode (((0x8#4 ++ x : BitVec 8) ++ y : BitVec 12) ++ 0x0#4) = some (.ldVxVy x y) ∧
    (∃ t, exec (.ldVxNn x nn) s = .next t ∧ t.getV x = nn ∧ SameRegsExcept [x] s t ∧
      SameExcept [.v] s t) ∧
    (∃ t, exec (.ldVxVy x y) s = .next t ∧ t.getV x = s.getV y ∧ SameRegsExcept [x] s t ∧
      SameExcept [.v] s t) ∧
    (∀ rest, s.status.run = true → rangeFault s.cfg s.pc.toNat 2 = false → stepTurn s.agenda rest →
      wordOfBytes (s.readByte s.pc.toNat) (s.readByte (s.pc.toNat + 1)) =
        (0x6#4 ++ x : BitVec 8) ++ nn →
      ∃ t, step s = .next t ∧ t.pc = s.pc + 2#16 ∧ t.getV x = nn)

/-- R81, 7XNN: V[X] becomes V[X] + NN modulo 256; VF is not written unless it is V[X]. -/
def Obligations.AddImmediateWraps : Prop :=
  ∀ (x : Nib) (nn : Byte) (s : State),
    decode ((0x7#4 ++ x : BitVec 8) ++ nn) = some (.addVxNn x nn) ∧
    ∃ t, exec (.addVxNn x nn) s = .next t ∧
      (t.getV x).toNat = ((s.getV x).toNat + nn.toNat) % 256 ∧ SameRegsExcept [x] s t ∧
      SameExcept [.v] s t

/-- R83, 8XY1, R84, 8XY2, and R85, 8XY3: bit k of V[X] becomes the OR, AND, exclusive OR of the bits k
of V[X] and V[Y]; VF is not written unless it is V[X]. -/
def Obligations.BitwiseOperations : Prop :=
  ∀ (x y : Nib) (s : State),
    decode (((0x8#4 ++ x : BitVec 8) ++ y : BitVec 12) ++ 0x1#4) = some (.orVxVy x y) ∧
    decode (((0x8#4 ++ x : BitVec 8) ++ y : BitVec 12) ++ 0x2#4) = some (.andVxVy x y) ∧
    decode (((0x8#4 ++ x : BitVec 8) ++ y : BitVec 12) ++ 0x3#4) = some (.xorVxVy x y) ∧
    (∃ t, exec (.orVxVy x y) s = .next t ∧
      (∀ k, (t.getV x).getLsbD k = ((s.getV x).getLsbD k || (s.getV y).getLsbD k)) ∧
      SameRegsExcept [x] s t ∧ SameExcept [.v] s t) ∧
    (∃ t, exec (.andVxVy x y) s = .next t ∧
      (∀ k, (t.getV x).getLsbD k = ((s.getV x).getLsbD k && (s.getV y).getLsbD k)) ∧
      SameRegsExcept [x] s t ∧ SameExcept [.v] s t) ∧
    (∃ t, exec (.xorVxVy x y) s = .next t ∧
      (∀ k, (t.getV x).getLsbD k = ((s.getV x).getLsbD k ^^ (s.getV y).getLsbD k)) ∧
      SameRegsExcept [x] s t ∧ SameExcept [.v] s t)

/-- 8XY4: VF becomes 1 if the unsigned sum exceeds 255, else 0, and V[X] the sum modulo 256; where X is
0xF the flag is what remains (decision D10). -/
def Obligations.AddSetsCarry : Prop :=
  ∀ (x y : Nib) (s : State),
    ∃ t, exec (.addVxVy x y) s = .next t ∧
      t.getV 0xF#4 = (if (s.getV x).toNat + (s.getV y).toNat > 255 then 1#8 else 0#8) ∧
      (x ≠ 0xF#4 → (t.getV x).toNat = ((s.getV x).toNat + (s.getV y).toNat) % 256) ∧
      SameRegsExcept [x, 0xF#4] s t ∧ SameExcept [.v] s t

/-- 8XY5: VF becomes 0 if V[X] < V[Y] before the subtraction, else 1, and V[X] the difference modulo
256; where X is 0xF the flag is what remains (decision D10). -/
def Obligations.SubtractSetsNotBorrow : Prop :=
  ∀ (x y : Nib) (s : State),
    ∃ t, exec (.subVxVy x y) s = .next t ∧
      t.getV 0xF#4 = (if (s.getV x).toNat < (s.getV y).toNat then 0#8 else 1#8) ∧
      (x ≠ 0xF#4 → ((t.getV x).toNat : Int) = ((s.getV x).toNat - (s.getV y).toNat : Int) % 256) ∧
      SameRegsExcept [x, 0xF#4] s t ∧ SameExcept [.v] s t

/-- 8XY7: as 8XY5 with the operands exchanged (decision D10 where X is 0xF). -/
def Obligations.ReverseSubtractSetsNotBorrow : Prop :=
  ∀ (x y : Nib) (s : State),
    ∃ t, exec (.subnVxVy x y) s = .next t ∧
      t.getV 0xF#4 = (if (s.getV y).toNat < (s.getV x).toNat then 0#8 else 1#8) ∧
      (x ≠ 0xF#4 → ((t.getV x).toNat : Int) = ((s.getV y).toNat - (s.getV x).toNat : Int) % 256) ∧
      SameRegsExcept [x, 0xF#4] s t ∧ SameExcept [.v] s t

/-- 8XY6, with v the old V[Y]: both V[X] and V[Y] become v div 2 and VF becomes v mod 2; where Y is
0xF all end as 0, and where only X is 0xF the flag is overwritten by v div 2 (decision D10). -/
def Obligations.ShiftRightWritesBoth : Prop :=
  ∀ (x y : Nib) (s : State),
    ∃ t, exec (.shrVxVy x y) s = .next t ∧
      (x ≠ 0xF#4 → y ≠ 0xF#4 → (t.getV 0xF#4).toNat = (s.getV y).toNat % 2) ∧
      (y ≠ 0xF#4 → (t.getV x).toNat = (s.getV y).toNat / 2 ∧
        (t.getV y).toNat = (s.getV y).toNat / 2) ∧
      (y = 0xF#4 → t.getV x = 0#8 ∧ t.getV y = 0#8) ∧
      SameRegsExcept [x, y, 0xF#4] s t ∧ SameExcept [.v] s t

/-- 8XYE, with v the old V[Y]: both V[X] and V[Y] become 2v mod 256 and VF becomes v div 128; where Y is
0xF all end as 2 (v div 128), and where only X is 0xF the flag is overwritten by 2v mod 256 (decision
D10). -/
def Obligations.ShiftLeftWritesBoth : Prop :=
  ∀ (x y : Nib) (s : State),
    ∃ t, exec (.shlVxVy x y) s = .next t ∧
      (x ≠ 0xF#4 → y ≠ 0xF#4 → (t.getV 0xF#4).toNat = (s.getV y).toNat / 128) ∧
      (y ≠ 0xF#4 → (t.getV x).toNat = 2 * (s.getV y).toNat % 256 ∧
        (t.getV y).toNat = 2 * (s.getV y).toNat % 256) ∧
      (y = 0xF#4 → (t.getV x).toNat = 2 * ((s.getV y).toNat / 128) ∧
        (t.getV y).toNat = 2 * ((s.getV y).toNat / 128)) ∧
      SameRegsExcept [x, y, 0xF#4] s t ∧ SameExcept [.v] s t

/-- CXNN: V[X] becomes the AND of NN and a fresh byte, the free constant at the current count of draws,
which then advances (decision D18; log 5): nothing is said of the byte, so this holds for every value of
it. -/
def Obligations.RandomIsMaskedFreeByte : Prop :=
  ∀ (x : Nib) (nn : Byte) (s : State),
    ∃ t, exec (.rndVxNn x nn) s = .next t ∧
      (∀ k, (t.getV x).getLsbD k = ((Config.randomByte s.draws).getLsbD k && nn.getLsbD k)) ∧
      t.draws = s.draws + 1 ∧ SameRegsExcept [x] s t ∧ SameExcept [.v, .draws] s t

/-! ### The address register and memory (42_index_memory.md, 20_memory.md) -/

/-- R100, ANNN: I becomes NNN, its upper four bits 0; nothing else changes. -/
def Obligations.LoadIndexImmediate : Prop :=
  ∀ (nnn : Addr) (s : State),
    decode (0xA#4 ++ nnn) = some (.ldINnn nnn) ∧
    ∃ t, exec (.ldINnn nnn) s = .next t ∧ t.i.toNat = nnn.toNat ∧ SameExcept [.i] s t

/-- FX1E: I becomes I + V[X] modulo 65536; no flag, nothing else changes (decision D19). -/
def Obligations.AddToIndexWrapsAt16Bits : Prop :=
  ∀ (x : Nib) (s : State),
    ∃ t, exec (.addIVx x) s = .next t ∧ t.i.toNat = (s.i.toNat + (s.getV x).toNat) % 65536 ∧
      SameExcept [.i] s t

/-- FX29, under NIBBLE_OPERAND = `mask` or on a hex digit: I becomes the address of the glyph of the low
nibble of V[X], FONT_BASE + 5 · digit; memory is not accessed, nothing else changes (decisions D1,
D15). -/
def Obligations.FontGlyphAddress : Prop :=
  ∀ (x : Nib) (s : State), s.cfg.wf = true →
    s.cfg.nibbleOperand = .mask ∨ (s.getV x).toNat ≤ 15 →
    ∃ t, exec (.ldFVx x) s = .next t ∧
      t.i.toNat = s.cfg.fontBase + 5 * ((s.getV x).toNat % 16) ∧ SameExcept [.i] s t

/-- FX29, EX9E and EXA1 under NIBBLE_OPERAND = `fault` on a value above 15 stop: the spec names no
effect for that setting (93_implementation_defined.md U5, U6; the model's choice, log 8). -/
def Obligations.NibbleOperandStopsUnderFault : Prop :=
  ∀ (x : Nib) (s : State), s.cfg.nibbleOperand = .fault → 15 < (s.getV x).toNat →
    exec (.ldFVx x) s = .fault .nibbleOperand ∧ exec (.skpVx x) s = .fault .nibbleOperand ∧
      exec (.sknpVx x) s = .fault .nibbleOperand

/-- R35: a write stores its byte at its address modulo 4096 and changes nothing else; the new value is
seen by every later read and by the 16-bit read of instruction fetch, as its high byte and as its low
byte. -/
def Obligations.MemoryWriteThenRead : Prop :=
  ∀ (s : State) (a : Nat) (b : Byte),
    (∀ a', a' % 4096 = a % 4096 → (s.writeByte a b).readByte a' = b) ∧
    (∀ a', a' % 4096 ≠ a % 4096 → (s.writeByte a b).readByte a' = s.readByte a') ∧
    (∀ a', a' % 4096 = a % 4096 →
      (s.writeByte a b).readWord a' = b ++ (s.writeByte a b).readByte (a' + 1)) ∧
    (∀ a', (a' + 1) % 4096 = a % 4096 →
      (s.writeByte a b).readWord a' = (s.writeByte a b).readByte a' ++ b) ∧
    SameExcept [.mem] s (s.writeByte a b)

/-- FX33: the hundreds, tens and ones digits of V[X] go to I, I + 1, I + 2 (modulo 4096) and make up its
value; every other byte and everything else stays (decision D4 where I + 2 passes 0xFFF). -/
def Obligations.DecimalDigitsStored : Prop :=
  ∀ (x : Nib) (s : State), rangeFault s.cfg s.i.toNat 3 = false →
    ∃ t, exec (.ldBVx x) s = .next t ∧
      (t.readByte s.i.toNat).toNat = (s.getV x).toNat / 100 ∧
      (t.readByte (s.i.toNat + 1)).toNat = (s.getV x).toNat / 10 % 10 ∧
      (t.readByte (s.i.toNat + 2)).toNat = (s.getV x).toNat % 10 ∧
      (∀ a, (∀ k, k < 3 → busAddress a ≠ busAddress (s.i.toNat + k)) →
        t.readByte a = s.readByte a) ∧
      SameExcept [.mem] s t

/-- FX55: V[0] to V[X] go to I, I + 1, ... (modulo 4096), X inclusive; every other byte, I and
everything else stays (decision D4 where an address passes 0xFFF). -/
def Obligations.RegistersStored : Prop :=
  ∀ (x : Nib) (s : State), rangeFault s.cfg s.i.toNat (x.toNat + 1) = false →
    ∃ t, exec (.ldMemVx x) s = .next t ∧
      (∀ r : Nib, r.toNat ≤ x.toNat → t.readByte (s.i.toNat + r.toNat) = s.getV r) ∧
      (∀ a, (∀ k, k ≤ x.toNat → busAddress a ≠ busAddress (s.i.toNat + k)) →
        t.readByte a = s.readByte a) ∧
      SameExcept [.mem] s t

/-- FX65: V[0] to V[X] come from I, I + 1, ... (modulo 4096), X inclusive; the registers above X, I,
memory and everything else stay (decision D4 where an address passes 0xFFF). -/
def Obligations.RegistersLoaded : Prop :=
  ∀ (x : Nib) (s : State), rangeFault s.cfg s.i.toNat (x.toNat + 1) = false →
    ∃ t, exec (.ldVxMem x) s = .next t ∧
      (∀ r : Nib, r.toNat ≤ x.toNat → t.getV r = s.readByte (s.i.toNat + r.toNat)) ∧
      (∀ r : Nib, x.toNat < r.toNat → t.getV r = s.getV r) ∧
      SameExcept [.v] s t

/-- Under ADDR_OOR = `fault`, DXYN, FX33, FX55 and FX65 whose access passes 0xFFF raise AddressRange
before they write anything: cause 4, the fetch address and the word; nothing else changes
(60_exceptions.md R140, R142; decisions D4, D9). -/
def Obligations.AccessPastTopHaltsUnderFault : Prop :=
  ∀ (i : Instr) (s : State), s.cfg.addrOor = .fault → 0 < accessBytes i →
    0xFFF < s.i.toNat % 4096 + (accessBytes i - 1) →
    ∃ t, exec i s = .next t ∧ t.status = ⟨false, .addressRange, s.pc - 2#16, encode i⟩ ∧
      SameExcept [.status] s t

/-! ### The display (43_display.md) -/

/-- R110, 00E0: every pixel becomes 0 and DIRTY 1, even on a clear display; nothing else changes, VF
included. -/
def Obligations.ClearScreenBlanksDisplay : Prop :=
  ∀ s : State,
    decode 0x00E0#16 = some .cls ∧
    ∃ t, exec .cls s = .next t ∧ (∀ y x, pixel t.display y x = false) ∧ t.dirty = true ∧
      SameExcept [.display, .dirty] s t

/-- DXYN: the pixels the sprite covers are flipped and no others; VF becomes 1 if one of those was set
before, else 0; DIRTY becomes 1; no other register and nothing else changes. Coordinates are the values
of V[X] and V[Y] before VF is written; beyond the grid DRAW_EDGE decides (decisions D11 to D14). -/
def Obligations.DrawFlipsCoveredPixels : Prop :=
  ∀ (x y n : Nib) (s : State), rangeFault s.cfg s.i.toNat n.toNat = false →
    ∃ t, exec (.drwVxVyN x y n) s = .next t ∧
      (∀ row col, spriteCovers s x y n row col → pixel t.display row col = !pixel s.display row col) ∧
      (∀ row col, ¬ spriteCovers s x y n row col →
        pixel t.display row col = pixel s.display row col) ∧
      ((∃ row col, spriteCovers s x y n row col ∧ pixel s.display row col = true) →
        t.getV 0xF#4 = 1#8) ∧
      ((∀ row col, spriteCovers s x y n row col → pixel s.display row col = false) →
        t.getV 0xF#4 = 0#8) ∧
      t.dirty = true ∧ SameRegsExcept [0xF#4] s t ∧ SameExcept [.v, .display, .dirty] s t

/-- Drawing the same sprite twice at the same place (X and Y not 0xF) restores the display; the second
VF is 1 exactly if some covered pixel was unset before the first draw, which is not the first VF in
general (43_display.md R111 (vii), derived there; 90_conflicts.md C2). -/
def Obligations.DrawTwiceRestoresDisplay : Prop :=
  ∀ (x y n : Nib) (s : State) (p : Word), rangeFault s.cfg s.i.toNat n.toNat = false →
    x ≠ 0xF#4 → y ≠ 0xF#4 →
    ∃ t u, exec (.drwVxVyN x y n) s = .next t ∧ exec (.drwVxVyN x y n) (t.setPc p) = .next u ∧
      u.display = s.display ∧
      ((∃ row col, spriteCovers s x y n row col ∧ pixel s.display row col = false) →
        u.getV 0xF#4 = 1#8) ∧
      ((∀ row col, spriteCovers s x y n row col → pixel s.display row col = true) →
        u.getV 0xF#4 = 0#8)

/-! ### Keypad and timers (44_keypad_timer.md, 60_exceptions.md) -/

/-- EX9E and EXA1, under NIBBLE_OPERAND = `mask` or on a key number: pc advances by 2 more exactly when
the key of the low nibble of V[X] is down, is up; nothing else changes (decisions D16, D28). -/
def Obligations.SkipOnKeyLevel : Prop :=
  ∀ (x : Nib) (s : State), s.cfg.nibbleOperand = .mask ∨ (s.getV x).toNat ≤ 15 →
    (∃ t, exec (.skpVx x) s = .next t ∧
      t.pc = (if s.keys.getLsbD ((s.getV x).toNat % 16) then s.pc + 2#16 else s.pc) ∧
      SameExcept [.pc] s t) ∧
    (∃ t, exec (.sknpVx x) s = .next t ∧
      t.pc = (if s.keys.getLsbD ((s.getV x).toNat % 16) then s.pc else s.pc + 2#16) ∧
      SameExcept [.pc] s t)

/-- FX0A with no key down: the Step changes nothing, pc is back at the instruction; only the schedule
has moved on (decision D17). -/
def Obligations.WaitForKeyChangesNothing : Prop :=
  ∀ (s : State) (x : Nib) (rest : List Event),
    s.status.run = true → rangeFault s.cfg s.pc.toNat 2 = false → stepTurn s.agenda rest →
    wordOfBytes (s.readByte s.pc.toNat) (s.readByte (s.pc.toNat + 1)) =
      (0xF#4 ++ x : BitVec 8) ++ 0x0A#8 →
    s.keys = 0#16 → step s = .next (s.setAgenda rest)

/-- FX0A with a key down: under KEY_PRIORITY = `lowest` V[X] becomes the lowest number of a key that is
down, and nothing else changes (decision D17). -/
def Obligations.WaitForKeyReportsLowest : Prop :=
  ∀ (x : Nib) (s : State) (k : Nat), s.cfg.keyPriority = .lowest →
    s.keys.getLsbD k = true → (∀ j, j < k → s.keys.getLsbD j = false) →
    ∃ t, exec (.ldVxK x) s = .next t ∧ (t.getV x).toNat = k ∧ SameRegsExcept [x] s t ∧
      SameExcept [.v] s t

/-- FX0A with a key down, whatever KEY_PRIORITY: V[X] becomes the number of a key that is down
(93_implementation_defined.md U7; the choice is free, log 6). -/
def Obligations.WaitForKeyReportsPressedKey : Prop :=
  ∀ (x : Nib) (s : State), s.keys ≠ 0#16 →
    ∃ t, exec (.ldVxK x) s = .next t ∧ s.keys.getLsbD (t.getV x).toNat = true ∧
      SameRegsExcept [x] s t ∧ SameExcept [.v, .draws] s t

/-- R124, FX15, and R125, FX18: DT, ST becomes V[X], any value, and nothing else changes; TONE is then
1 exactly if ST > 0. -/
def Obligations.TimersSetFromRegister : Prop :=
  ∀ (x : Nib) (s : State),
    decode ((0xF#4 ++ x : BitVec 8) ++ 0x15#8) = some (.ldDtVx x) ∧
    decode ((0xF#4 ++ x : BitVec 8) ++ 0x18#8) = some (.ldStVx x) ∧
    (∃ t, exec (.ldDtVx x) s = .next t ∧ t.dt = s.getV x ∧ SameExcept [.dt] s t) ∧
    (∃ t, exec (.ldStVx x) s = .next t ∧ t.st = s.getV x ∧
      (tone t = true ↔ 0 < (s.getV x).toNat) ∧ SameExcept [.st] s t)

/-- R123, FX07: V[X] becomes DT, which reading does not change, nor anything else; after any number `j`
of Ticks of a running machine the value read is max(DT − j, 0), DT being its value before the Ticks. -/
def Obligations.DelayTimerRead : Prop :=
  ∀ (x : Nib) (s : State),
    decode ((0xF#4 ++ x : BitVec 8) ++ 0x07#8) = some (.ldVxDt x) ∧
    (∃ t, exec (.ldVxDt x) s = .next t ∧ t.getV x = s.dt ∧ SameRegsExcept [x] s t ∧
      SameExcept [.v] s t) ∧
    (s.status.run = true → ∀ j, ∃ t, exec (.ldVxDt x) (tick^[j] s) = .next t ∧
      (t.getV x).toNat = s.dt.toNat - j ∧ t.dt = (tick^[j] s).dt)

/-- A Tick of a running machine lowers DT and ST by one each, saturating at 0, and changes nothing else
but the schedule; in a halted machine it has no effect (decision D22). -/
def Obligations.TickCountsDownSaturating : Prop :=
  ∀ (s : State) (rest : List Event), s.agenda = .tick :: rest →
    ∃ t, step s = .next t ∧ t.agenda = rest ∧
      (s.status.run = true → t.dt.toNat = s.dt.toNat - 1 ∧ t.st.toNat = s.st.toNat - 1 ∧
        SameExcept [.dt, .st, .agenda] s t) ∧
      (s.status.run = false → SameExcept [.agenda] s t)

/-! ### The Host (60_exceptions.md R158) and reset -/

/-- The Host's key change sets the KEY levels, its snapshot read clears DIRTY (decision D13), halted or
not, and neither changes anything else but the schedule. -/
def Obligations.HostMovesChangeOnlyTheirInput : Prop :=
  ∀ (s : State) (levels : Word) (rest : List Event),
    (s.agenda = .keys levels :: rest →
      ∃ t, step s = .next t ∧ t.keys = levels ∧ t.agenda = rest ∧ SameExcept [.keys, .agenda] s t) ∧
    (s.agenda = .snapshot :: rest →
      ∃ t, step s = .next t ∧ t.dirty = false ∧ frame t = frame s ∧ t.agenda = rest ∧
        SameExcept [.dirty, .agenda] s t)

/-- RESET and LOAD, from any state: an image of at most 2048 bytes stands unmodified at 0x200 on, every
other byte is as after reset, and every register, the display, the timers and STATUS are as after
reset; a longer image is a load error (70_reset_and_hazards.md R170 to R172; log 12). -/
def Obligations.RestartLoadsImage : Prop :=
  ∀ (s : State) (image : List Byte) (rest : List Event), s.agenda = .restart image :: rest →
    (2048 < image.length → step s = .fault .loadError) ∧
    (image.length ≤ 2048 →
      ∃ t, step s = .next t ∧
        (∀ k b, image[k]? = some b → t.readByte (0x200 + k) = b) ∧
        (∀ a, a < 4096 → a < 0x200 ∨ 0x200 + image.length ≤ a → t.readByte a = resetByte s.cfg a) ∧
        SameExcept [.mem, .keys, .draws, .agenda] (resetWith s.cfg) t ∧
        t.keys = s.keys ∧ t.draws = s.draws ∧ t.agenda = rest)

/-- After RESET and before any LOAD, with the parameters at their defaults: the values of 10_state.md
R23 (decisions D2, D6, D7, D9; log 9, 10, 11). -/
def Obligations.ResetValues : Prop :=
  (∀ r, State.reset.getV r = 0#8) ∧ State.reset.i = 0#16 ∧ State.reset.pc = 0x0200#16 ∧
  State.reset.sp = 0 ∧ State.reset.stack = List.replicate 16 0#16 ∧
  (∀ a, a < 80 → some (State.reset.readByte a) = fontDefault[a]?) ∧
  (∀ a, 80 ≤ a → a < 4096 → State.reset.readByte a = 0#8) ∧
  (∀ y x, pixel State.reset.display y x = false) ∧ State.reset.dirty = false ∧
  State.reset.dt = 0#8 ∧ State.reset.st = 0#8 ∧ tone State.reset = false ∧
  State.reset.status = ⟨true, .none, 0#16, 0#16⟩

/-- The invariant holds after reset, whatever the parameters. -/
def Obligations.ResetMeetsInvariant : Prop := ∀ c : Config, (resetWith c).Inv

/-- Every move that answers a next state keeps the invariant, from every state that meets it: memory in
canonical form, SP and the stack within STACK_DEPTH, CAUSE none exactly while running, AddressRange
only under ADDR_OOR = `fault`. -/
def Obligations.StepKeepsInvariant : Prop :=
  ∀ s t : State, s.Inv → step s = .next t → t.Inv

/-! ### Whole-machine rules -/

/-- No instruction changes a part of the state outside its write set (10_state.md R10 to R20: which
instructions write I, pc, the stack, Memory, the display, DIRTY, DT, ST, STATUS). -/
def Obligations.ExecChangesOnlyItsParts : Prop :=
  ∀ (i : Instr) (s t : State), exec i s = .next t → SameExcept (mayWrite i) s t

/-- No instruction changes a register outside those 10_state.md R10 lists for it, VF included (R11). -/
def Obligations.ExecChangesOnlyItsRegisters : Prop :=
  ∀ (i : Instr) (s t : State), exec i s = .next t →
    ∀ r, ¬ mayWriteReg r i → t.getV r = s.getV r

/-- Faults are precise and are raised only where 60_exceptions.md R140 lists them: an instruction that
halts a running machine changes STATUS alone, records its own fetch address and word, and the cause is
StackOverflow of a call on a full stack, StackUnderflow of a return on an empty one, or AddressRange of
an access past 0xFFF under ADDR_OOR = `fault` (R143; decision D9). -/
def Obligations.FaultsArePrecise : Prop :=
  ∀ (i : Instr) (s t : State), s.Inv → s.status.run = true → exec i s = .next t →
    t.status.run = false →
    t = s.setStatus ⟨false, t.status.cause, s.pc - 2#16, encode i⟩ ∧
    ((t.status.cause = .stackOverflow ∧ (∃ nnn, i = .callNnn nnn) ∧ s.sp = s.cfg.stackDepth) ∨
      (t.status.cause = .stackUnderflow ∧ i = .ret ∧ s.sp = 0) ∨
      (t.status.cause = .addressRange ∧ s.cfg.addrOor = .fault ∧ 0 < accessBytes i ∧
        0xFFF < s.i.toNat % 4096 + (accessBytes i - 1)))

/-- Every instruction answers a next state in every state, but for a register above 15 used as a hex
digit or key number under NIBBLE_OPERAND = `fault` (log 8). -/
def Obligations.ExecAnswersNextState : Prop :=
  ∀ (i : Instr) (s : State),
    (s.cfg.nibbleOperand = .mask ∨ ∀ b, nibbleOperandOf s i = some b → b.toNat ≤ 15) →
    ∃ t, exec i s = .next t

/-- A Step of a running machine is safe when none of the conditions of 60_exceptions.md R140 holds: its
word decodes, a call has room, a return has an entry, and under ADDR_OOR = `fault` neither the fetch nor
the instruction's access passes 0xFFF (NIBBLE_OPERAND at `mask`; log 8). -/
def Obligations.StepIsSafeWithoutFaultCondition : Prop :=
  ∀ (s : State) (i : Instr) (rest : List Event),
    s.status.run = true → s.cfg.nibbleOperand = .mask → stepTurn s.agenda rest →
    rangeFault s.cfg s.pc.toNat 2 = false →
    decode (wordOfBytes (s.readByte s.pc.toNat) (s.readByte (s.pc.toNat + 1))) = some i →
    ((∃ nnn, i = .callNnn nnn) → s.sp < s.cfg.stackDepth) → (i = .ret → 0 < s.sp) →
    rangeFault s.cfg s.i.toNat (accessBytes i) = false →
    SafeMove s

/-- The machine never refuses, and under NIBBLE_OPERAND = `mask` a move stops only when a Step is asked
of a halted machine or an image over 2048 bytes is loaded (60_exceptions.md R144, R149; log 2, 12). -/
def Obligations.StepStopsOnlyWhenHaltedOrOverlongImage : Prop :=
  ∀ s : State, s.cfg.nibbleOperand = .mask →
    (∃ t, step s = .next t) ∨
    (s.status.run = false ∧ (∃ rest, stepTurn s.agenda rest) ∧
      step s = .fault (.halted s.status.cause)) ∨
    ((∃ image rest, s.agenda = .restart image :: rest ∧ 2048 < image.length) ∧
      step s = .fault .loadError)

/-- A Tick and an instruction that touches no timer commute: either order of the two gives the same
state, wherever the instruction does not halt the machine (60_exceptions.md R151; decision D22 freezes
Ticks of a halted machine). -/
def Obligations.TickCommutesWithInstruction : Prop :=
  ∀ (i : Instr) (s t : State), touchesTimer i = false → s.status.run = true →
    exec i s = .next t → t.status.run = true → exec i (tick s) = .next (tick t)

/-- No program can observe bits 15 to 12 of I, pc and the stack entries, nor DIRTY: two states that
differ only there (and in those bits of FAULT_PC) make moves that end the same way, in states that
again differ only there (10_state.md R12, R13, R21; decisions D4, D20, D13). -/
def Obligations.HighBitsAndDirtyUnobservable : Prop :=
  ∀ s s' : State, s.cfg.addrOor = .wrap → AgreeBelowBit12 s s' →
    (∀ t, step s = .next t → ∃ t', step s' = .next t' ∧ AgreeBelowBit12 t t') ∧
    (∀ f, step s = .fault f → step s' = .fault f)
end

