-- ==== Sys2Proof/Laws/Encoding.lean ====
section
/-! SUPPORT. The accessors of 30_encoding.md R62 on words built from fields (R54), and the masks of
R56 on them. -/

namespace Sys2Proof

/-! ### The accessors as numbers -/

theorem nibble0_toNat (w : Word) : (nibble0 w).toNat = w.toNat / 4096 := by
  have := w.isLt
  simp [nibble0, BitVec.extractLsb'_toNat, Nat.shiftRight_eq_div_pow]
  omega

theorem nibble1_toNat (w : Word) : (nibble1 w).toNat = w.toNat / 256 % 16 := by
  simp [nibble1, BitVec.extractLsb'_toNat, Nat.shiftRight_eq_div_pow]

theorem nibble2_toNat (w : Word) : (nibble2 w).toNat = w.toNat / 16 % 16 := by
  simp [nibble2, BitVec.extractLsb'_toNat, Nat.shiftRight_eq_div_pow]

theorem nibble3_toNat (w : Word) : (nibble3 w).toNat = w.toNat % 16 := by
  simp [nibble3, BitVec.extractLsb'_toNat]

theorem lowByte_toNat (w : Word) : (lowByte w).toNat = w.toNat % 256 := by
  simp [lowByte, BitVec.extractLsb'_toNat]

theorem highByte_toNat (w : Word) : (highByte w).toNat = w.toNat / 256 := by
  have := w.isLt
  simp [highByte, BitVec.extractLsb'_toNat, Nat.shiftRight_eq_div_pow]
  omega

theorem low12_toNat (w : Word) : (low12 w).toNat = w.toNat % 4096 := by
  simp [low12, BitVec.extractLsb'_toNat]

/-! ### Words built from fields, as numbers -/

theorem append_toNat_add {m n : Nat} (a : BitVec m) (b : BitVec n) :
    (a ++ b).toNat = a.toNat * 2 ^ n + b.toNat := by
  rw [BitVec.toNat_append, Nat.shiftLeft_eq, Nat.mul_comm, Nat.two_pow_add_eq_or_of_lt b.isLt]

theorem formatNNN_toNat (op : Nib) (nnn : Addr) :
    (formatNNN op nnn).toNat = op.toNat * 4096 + nnn.toNat := by
  exact append_toNat_add op nnn

theorem formatXNN_toNat (op x : Nib) (nn : Byte) :
    (formatXNN op x nn).toNat = op.toNat * 4096 + x.toNat * 256 + nn.toNat := by
  have h1 : (formatXNN op x nn).toNat = (op ++ x : BitVec 8).toNat * 2 ^ 8 + nn.toNat :=
    append_toNat_add (op ++ x : BitVec 8) nn
  have h2 : (op ++ x : BitVec 8).toNat = op.toNat * 2 ^ 4 + x.toNat := append_toNat_add op x
  rw [h1, h2]; ring

theorem formatXYN_toNat (op x y n : Nib) :
    (formatXYN op x y n).toNat = op.toNat * 4096 + x.toNat * 256 + y.toNat * 16 + n.toNat := by
  have h1 : (formatXYN op x y n).toNat = ((op ++ x : BitVec 8) ++ y : BitVec 12).toNat * 2 ^ 4 + n.toNat :=
    append_toNat_add ((op ++ x : BitVec 8) ++ y : BitVec 12) n
  have h2 : ((op ++ x : BitVec 8) ++ y : BitVec 12).toNat = (op ++ x : BitVec 8).toNat * 2 ^ 4 + y.toNat :=
    append_toNat_add (op ++ x : BitVec 8) y
  have h3 : (op ++ x : BitVec 8).toNat = op.toNat * 2 ^ 4 + x.toNat := append_toNat_add op x
  rw [h1, h2, h3]; ring

theorem wordOfBytes_toNat (hi lo : Byte) : (wordOfBytes hi lo).toNat = hi.toNat * 256 + lo.toNat := by
  exact append_toNat_add hi lo

/-! ### The accessors on words built from fields -/

@[simp] theorem nibble0_formatNNN (op : Nib) (nnn : Addr) : nibble0 (formatNNN op nnn) = op := by
  apply BitVec.eq_of_toNat_eq
  rw [nibble0_toNat, formatNNN_toNat]; omega

@[simp] theorem low12_formatNNN (op : Nib) (nnn : Addr) : low12 (formatNNN op nnn) = nnn := by
  apply BitVec.eq_of_toNat_eq
  rw [low12_toNat, formatNNN_toNat]; omega

@[simp] theorem nibble0_formatXNN (op x : Nib) (nn : Byte) : nibble0 (formatXNN op x nn) = op := by
  apply BitVec.eq_of_toNat_eq
  rw [nibble0_toNat, formatXNN_toNat]; omega

@[simp] theorem nibble1_formatXNN (op x : Nib) (nn : Byte) : nibble1 (formatXNN op x nn) = x := by
  apply BitVec.eq_of_toNat_eq
  rw [nibble1_toNat, formatXNN_toNat]; omega

@[simp] theorem lowByte_formatXNN (op x : Nib) (nn : Byte) : lowByte (formatXNN op x nn) = nn := by
  apply BitVec.eq_of_toNat_eq
  rw [lowByte_toNat, formatXNN_toNat]; omega

@[simp] theorem nibble0_formatXYN (op x y n : Nib) : nibble0 (formatXYN op x y n) = op := by
  apply BitVec.eq_of_toNat_eq
  rw [nibble0_toNat, formatXYN_toNat]; omega

@[simp] theorem nibble1_formatXYN (op x y n : Nib) : nibble1 (formatXYN op x y n) = x := by
  apply BitVec.eq_of_toNat_eq
  rw [nibble1_toNat, formatXYN_toNat]; omega

@[simp] theorem nibble2_formatXYN (op x y n : Nib) : nibble2 (formatXYN op x y n) = y := by
  apply BitVec.eq_of_toNat_eq
  rw [nibble2_toNat, formatXYN_toNat]; omega

@[simp] theorem nibble3_formatXYN (op x y n : Nib) : nibble3 (formatXYN op x y n) = n := by
  apply BitVec.eq_of_toNat_eq
  rw [nibble3_toNat, formatXYN_toNat]; omega

/-- A word is its two bytes, the high byte first (30_encoding.md R55). -/
@[simp] theorem wordOfBytes_bytes (w : Word) : wordOfBytes (highByte w) (lowByte w) = w := by
  apply BitVec.eq_of_toNat_eq
  rw [wordOfBytes_toNat, highByte_toNat, lowByte_toNat]; omega

@[simp] theorem highByte_wordOfBytes (hi lo : Byte) : highByte (wordOfBytes hi lo) = hi := by
  apply BitVec.eq_of_toNat_eq
  rw [highByte_toNat, wordOfBytes_toNat]; omega

@[simp] theorem lowByte_wordOfBytes (hi lo : Byte) : lowByte (wordOfBytes hi lo) = lo := by
  apply BitVec.eq_of_toNat_eq
  rw [lowByte_toNat, wordOfBytes_toNat]; omega

/-! ### A word from its fields -/

theorem formatNNN_fields (w : Word) : formatNNN (nibble0 w) (low12 w) = w := by
  apply BitVec.eq_of_toNat_eq
  rw [formatNNN_toNat, nibble0_toNat, low12_toNat]; omega

theorem formatXNN_fields (w : Word) : formatXNN (nibble0 w) (nibble1 w) (lowByte w) = w := by
  apply BitVec.eq_of_toNat_eq
  rw [formatXNN_toNat, nibble0_toNat, nibble1_toNat, lowByte_toNat]; omega

theorem formatXYN_fields (w : Word) :
    formatXYN (nibble0 w) (nibble1 w) (nibble2 w) (nibble3 w) = w := by
  apply BitVec.eq_of_toNat_eq
  rw [formatXYN_toNat, nibble0_toNat, nibble1_toNat, nibble2_toNat, nibble3_toNat]; omega

/-! ### The masks of R56 -/

theorem mask_append {m n : Nat} (a a' : BitVec m) (b b' : BitVec n) :
    (a ++ b) &&& (a' ++ b') = (a &&& a') ++ (b &&& b') := by
  rw [BitVec.and_append]

theorem and_all_nibble (a : Nib) : a &&& 15#4 = a := BitVec.and_allOnes

theorem and_all_byte (a : Byte) : a &&& 255#8 = a := BitVec.and_allOnes

theorem formatNNN_mask (op : Nib) (nnn : Addr) : formatNNN op nnn &&& 0xF000#16 = op ++ 0#12 := by
  rw [show (0xF000#16 : Word) = (0xF#4 ++ 0#12 : BitVec 16) from rfl, formatNNN, mask_append]
  simp [and_all_nibble]

theorem formatXNN_mask_op (op x : Nib) (nn : Byte) :
    formatXNN op x nn &&& 0xF000#16 = (op ++ 0#4 : BitVec 8) ++ 0#8 := by
  rw [show (0xF000#16 : Word) = ((0xF#4 ++ 0#4 : BitVec 8) ++ 0#8 : BitVec 16) from rfl, formatXNN,
    mask_append, mask_append]
  simp [and_all_nibble]

theorem formatXNN_mask_function (op x : Nib) (nn : Byte) :
    formatXNN op x nn &&& 0xF0FF#16 = (op ++ 0#4 : BitVec 8) ++ nn := by
  rw [show (0xF0FF#16 : Word) = ((0xF#4 ++ 0#4 : BitVec 8) ++ 0xFF#8 : BitVec 16) from rfl, formatXNN,
    mask_append, mask_append]
  simp [and_all_nibble, and_all_byte]

theorem formatXYN_mask_function (op x y n : Nib) :
    formatXYN op x y n &&& 0xF00F#16 = ((op ++ 0#4 : BitVec 8) ++ 0#4 : BitVec 12) ++ n := by
  rw [show (0xF00F#16 : Word) = (((0xF#4 ++ 0#4 : BitVec 8) ++ 0#4 : BitVec 12) ++ 0xF#4 : BitVec 16)
    from rfl, formatXYN, mask_append, mask_append, mask_append]
  simp [and_all_nibble]

theorem formatXYN_mask_op (op x y n : Nib) :
    formatXYN op x y n &&& 0xF000#16 = ((op ++ 0#4 : BitVec 8) ++ 0#4 : BitVec 12) ++ 0#4 := by
  rw [show (0xF000#16 : Word) = (((0xF#4 ++ 0#4 : BitVec 8) ++ 0#4 : BitVec 12) ++ 0x0#4 : BitVec 16)
    from rfl, formatXYN, mask_append, mask_append, mask_append]
  simp [and_all_nibble]

/-! ### Well-formed instructions -/

/-- Every instruction term is well-formed: the operand types are as wide as the fields. -/
theorem Instr.wf_of_typed (i : Instr) : i.wf = true := by
  cases i <;> simp [Instr.wf] <;> omega

end Sys2Proof
end

