-- ==== Sys2Proof/Laws/State.lean ====
section
/-! SUPPORT. One lemma per field per update, so that no proof unfolds a record update; and what the
accessors `getV` and `readByte` see of each update. -/

namespace Sys2Proof.Machine

variable (s : State)

/-! ### setV -/

@[simp] theorem State.setV_cfg (r : Nib) (b : Byte) : (s.setV r b).cfg = s.cfg := rfl
@[simp] theorem State.setV_i (r : Nib) (b : Byte) : (s.setV r b).i = s.i := rfl
@[simp] theorem State.setV_pc (r : Nib) (b : Byte) : (s.setV r b).pc = s.pc := rfl
@[simp] theorem State.setV_stack (r : Nib) (b : Byte) : (s.setV r b).stack = s.stack := rfl
@[simp] theorem State.setV_sp (r : Nib) (b : Byte) : (s.setV r b).sp = s.sp := rfl
@[simp] theorem State.setV_mem (r : Nib) (b : Byte) : (s.setV r b).mem = s.mem := rfl
@[simp] theorem State.setV_display (r : Nib) (b : Byte) : (s.setV r b).display = s.display := rfl
@[simp] theorem State.setV_dirty (r : Nib) (b : Byte) : (s.setV r b).dirty = s.dirty := rfl
@[simp] theorem State.setV_dt (r : Nib) (b : Byte) : (s.setV r b).dt = s.dt := rfl
@[simp] theorem State.setV_st (r : Nib) (b : Byte) : (s.setV r b).st = s.st := rfl
@[simp] theorem State.setV_status (r : Nib) (b : Byte) : (s.setV r b).status = s.status := rfl
@[simp] theorem State.setV_keys (r : Nib) (b : Byte) : (s.setV r b).keys = s.keys := rfl
@[simp] theorem State.setV_draws (r : Nib) (b : Byte) : (s.setV r b).draws = s.draws := rfl
@[simp] theorem State.setV_agenda (r : Nib) (b : Byte) : (s.setV r b).agenda = s.agenda := rfl
@[simp] theorem State.setV_readByte (r : Nib) (b : Byte) (a' : Nat) : (s.setV r b).readByte a' = s.readByte a' := rfl

/-! ### setI -/

@[simp] theorem State.setI_cfg (w : Word) : (s.setI w).cfg = s.cfg := rfl
@[simp] theorem State.setI_v (w : Word) : (s.setI w).v = s.v := rfl
@[simp] theorem State.setI_i (w : Word) : (s.setI w).i = w := rfl
@[simp] theorem State.setI_pc (w : Word) : (s.setI w).pc = s.pc := rfl
@[simp] theorem State.setI_stack (w : Word) : (s.setI w).stack = s.stack := rfl
@[simp] theorem State.setI_sp (w : Word) : (s.setI w).sp = s.sp := rfl
@[simp] theorem State.setI_mem (w : Word) : (s.setI w).mem = s.mem := rfl
@[simp] theorem State.setI_display (w : Word) : (s.setI w).display = s.display := rfl
@[simp] theorem State.setI_dirty (w : Word) : (s.setI w).dirty = s.dirty := rfl
@[simp] theorem State.setI_dt (w : Word) : (s.setI w).dt = s.dt := rfl
@[simp] theorem State.setI_st (w : Word) : (s.setI w).st = s.st := rfl
@[simp] theorem State.setI_status (w : Word) : (s.setI w).status = s.status := rfl
@[simp] theorem State.setI_keys (w : Word) : (s.setI w).keys = s.keys := rfl
@[simp] theorem State.setI_draws (w : Word) : (s.setI w).draws = s.draws := rfl
@[simp] theorem State.setI_agenda (w : Word) : (s.setI w).agenda = s.agenda := rfl
@[simp] theorem State.setI_getV (w : Word) (r' : Nib) : (s.setI w).getV r' = s.getV r' := rfl
@[simp] theorem State.setI_readByte (w : Word) (a' : Nat) : (s.setI w).readByte a' = s.readByte a' := rfl

/-! ### setPc -/

@[simp] theorem State.setPc_cfg (w : Word) : (s.setPc w).cfg = s.cfg := rfl
@[simp] theorem State.setPc_v (w : Word) : (s.setPc w).v = s.v := rfl
@[simp] theorem State.setPc_i (w : Word) : (s.setPc w).i = s.i := rfl
@[simp] theorem State.setPc_pc (w : Word) : (s.setPc w).pc = w := rfl
@[simp] theorem State.setPc_stack (w : Word) : (s.setPc w).stack = s.stack := rfl
@[simp] theorem State.setPc_sp (w : Word) : (s.setPc w).sp = s.sp := rfl
@[simp] theorem State.setPc_mem (w : Word) : (s.setPc w).mem = s.mem := rfl
@[simp] theorem State.setPc_display (w : Word) : (s.setPc w).display = s.display := rfl
@[simp] theorem State.setPc_dirty (w : Word) : (s.setPc w).dirty = s.dirty := rfl
@[simp] theorem State.setPc_dt (w : Word) : (s.setPc w).dt = s.dt := rfl
@[simp] theorem State.setPc_st (w : Word) : (s.setPc w).st = s.st := rfl
@[simp] theorem State.setPc_status (w : Word) : (s.setPc w).status = s.status := rfl
@[simp] theorem State.setPc_keys (w : Word) : (s.setPc w).keys = s.keys := rfl
@[simp] theorem State.setPc_draws (w : Word) : (s.setPc w).draws = s.draws := rfl
@[simp] theorem State.setPc_agenda (w : Word) : (s.setPc w).agenda = s.agenda := rfl
@[simp] theorem State.setPc_getV (w : Word) (r' : Nib) : (s.setPc w).getV r' = s.getV r' := rfl
@[simp] theorem State.setPc_readByte (w : Word) (a' : Nat) : (s.setPc w).readByte a' = s.readByte a' := rfl

/-! ### setDt -/

@[simp] theorem State.setDt_cfg (b : Byte) : (s.setDt b).cfg = s.cfg := rfl
@[simp] theorem State.setDt_v (b : Byte) : (s.setDt b).v = s.v := rfl
@[simp] theorem State.setDt_i (b : Byte) : (s.setDt b).i = s.i := rfl
@[simp] theorem State.setDt_pc (b : Byte) : (s.setDt b).pc = s.pc := rfl
@[simp] theorem State.setDt_stack (b : Byte) : (s.setDt b).stack = s.stack := rfl
@[simp] theorem State.setDt_sp (b : Byte) : (s.setDt b).sp = s.sp := rfl
@[simp] theorem State.setDt_mem (b : Byte) : (s.setDt b).mem = s.mem := rfl
@[simp] theorem State.setDt_display (b : Byte) : (s.setDt b).display = s.display := rfl
@[simp] theorem State.setDt_dirty (b : Byte) : (s.setDt b).dirty = s.dirty := rfl
@[simp] theorem State.setDt_dt (b : Byte) : (s.setDt b).dt = b := rfl
@[simp] theorem State.setDt_st (b : Byte) : (s.setDt b).st = s.st := rfl
@[simp] theorem State.setDt_status (b : Byte) : (s.setDt b).status = s.status := rfl
@[simp] theorem State.setDt_keys (b : Byte) : (s.setDt b).keys = s.keys := rfl
@[simp] theorem State.setDt_draws (b : Byte) : (s.setDt b).draws = s.draws := rfl
@[simp] theorem State.setDt_agenda (b : Byte) : (s.setDt b).agenda = s.agenda := rfl
@[simp] theorem State.setDt_getV (b : Byte) (r' : Nib) : (s.setDt b).getV r' = s.getV r' := rfl
@[simp] theorem State.setDt_readByte (b : Byte) (a' : Nat) : (s.setDt b).readByte a' = s.readByte a' := rfl

/-! ### setSt -/

@[simp] theorem State.setSt_cfg (b : Byte) : (s.setSt b).cfg = s.cfg := rfl
@[simp] theorem State.setSt_v (b : Byte) : (s.setSt b).v = s.v := rfl
@[simp] theorem State.setSt_i (b : Byte) : (s.setSt b).i = s.i := rfl
@[simp] theorem State.setSt_pc (b : Byte) : (s.setSt b).pc = s.pc := rfl
@[simp] theorem State.setSt_stack (b : Byte) : (s.setSt b).stack = s.stack := rfl
@[simp] theorem State.setSt_sp (b : Byte) : (s.setSt b).sp = s.sp := rfl
@[simp] theorem State.setSt_mem (b : Byte) : (s.setSt b).mem = s.mem := rfl
@[simp] theorem State.setSt_display (b : Byte) : (s.setSt b).display = s.display := rfl
@[simp] theorem State.setSt_dirty (b : Byte) : (s.setSt b).dirty = s.dirty := rfl
@[simp] theorem State.setSt_dt (b : Byte) : (s.setSt b).dt = s.dt := rfl
@[simp] theorem State.setSt_st (b : Byte) : (s.setSt b).st = b := rfl
@[simp] theorem State.setSt_status (b : Byte) : (s.setSt b).status = s.status := rfl
@[simp] theorem State.setSt_keys (b : Byte) : (s.setSt b).keys = s.keys := rfl
@[simp] theorem State.setSt_draws (b : Byte) : (s.setSt b).draws = s.draws := rfl
@[simp] theorem State.setSt_agenda (b : Byte) : (s.setSt b).agenda = s.agenda := rfl
@[simp] theorem State.setSt_getV (b : Byte) (r' : Nib) : (s.setSt b).getV r' = s.getV r' := rfl
@[simp] theorem State.setSt_readByte (b : Byte) (a' : Nat) : (s.setSt b).readByte a' = s.readByte a' := rfl

/-! ### setStatus -/

@[simp] theorem State.setStatus_cfg (t : Status) : (s.setStatus t).cfg = s.cfg := rfl
@[simp] theorem State.setStatus_v (t : Status) : (s.setStatus t).v = s.v := rfl
@[simp] theorem State.setStatus_i (t : Status) : (s.setStatus t).i = s.i := rfl
@[simp] theorem State.setStatus_pc (t : Status) : (s.setStatus t).pc = s.pc := rfl
@[simp] theorem State.setStatus_stack (t : Status) : (s.setStatus t).stack = s.stack := rfl
@[simp] theorem State.setStatus_sp (t : Status) : (s.setStatus t).sp = s.sp := rfl
@[simp] theorem State.setStatus_mem (t : Status) : (s.setStatus t).mem = s.mem := rfl
@[simp] theorem State.setStatus_display (t : Status) : (s.setStatus t).display = s.display := rfl
@[simp] theorem State.setStatus_dirty (t : Status) : (s.setStatus t).dirty = s.dirty := rfl
@[simp] theorem State.setStatus_dt (t : Status) : (s.setStatus t).dt = s.dt := rfl
@[simp] theorem State.setStatus_st (t : Status) : (s.setStatus t).st = s.st := rfl
@[simp] theorem State.setStatus_status (t : Status) : (s.setStatus t).status = t := rfl
@[simp] theorem State.setStatus_keys (t : Status) : (s.setStatus t).keys = s.keys := rfl
@[simp] theorem State.setStatus_draws (t : Status) : (s.setStatus t).draws = s.draws := rfl
@[simp] theorem State.setStatus_agenda (t : Status) : (s.setStatus t).agenda = s.agenda := rfl
@[simp] theorem State.setStatus_getV (t : Status) (r' : Nib) : (s.setStatus t).getV r' = s.getV r' := rfl
@[simp] theorem State.setStatus_readByte (t : Status) (a' : Nat) : (s.setStatus t).readByte a' = s.readByte a' := rfl

/-! ### setStack -/

@[simp] theorem State.setStack_cfg (l : List Word) (n : Nat) : (s.setStack l n).cfg = s.cfg := rfl
@[simp] theorem State.setStack_v (l : List Word) (n : Nat) : (s.setStack l n).v = s.v := rfl
@[simp] theorem State.setStack_i (l : List Word) (n : Nat) : (s.setStack l n).i = s.i := rfl
@[simp] theorem State.setStack_pc (l : List Word) (n : Nat) : (s.setStack l n).pc = s.pc := rfl
@[simp] theorem State.setStack_stack (l : List Word) (n : Nat) : (s.setStack l n).stack = l := rfl
@[simp] theorem State.setStack_sp (l : List Word) (n : Nat) : (s.setStack l n).sp = n := rfl
@[simp] theorem State.setStack_mem (l : List Word) (n : Nat) : (s.setStack l n).mem = s.mem := rfl
@[simp] theorem State.setStack_display (l : List Word) (n : Nat) : (s.setStack l n).display = s.display := rfl
@[simp] theorem State.setStack_dirty (l : List Word) (n : Nat) : (s.setStack l n).dirty = s.dirty := rfl
@[simp] theorem State.setStack_dt (l : List Word) (n : Nat) : (s.setStack l n).dt = s.dt := rfl
@[simp] theorem State.setStack_st (l : List Word) (n : Nat) : (s.setStack l n).st = s.st := rfl
@[simp] theorem State.setStack_status (l : List Word) (n : Nat) : (s.setStack l n).status = s.status := rfl
@[simp] theorem State.setStack_keys (l : List Word) (n : Nat) : (s.setStack l n).keys = s.keys := rfl
@[simp] theorem State.setStack_draws (l : List Word) (n : Nat) : (s.setStack l n).draws = s.draws := rfl
@[simp] theorem State.setStack_agenda (l : List Word) (n : Nat) : (s.setStack l n).agenda = s.agenda := rfl
@[simp] theorem State.setStack_getV (l : List Word) (n : Nat) (r' : Nib) : (s.setStack l n).getV r' = s.getV r' := rfl
@[simp] theorem State.setStack_readByte (l : List Word) (n : Nat) (a' : Nat) : (s.setStack l n).readByte a' = s.readByte a' := rfl

/-! ### setDisplay -/

@[simp] theorem State.setDisplay_cfg (d : Display) : (s.setDisplay d).cfg = s.cfg := rfl
@[simp] theorem State.setDisplay_v (d : Display) : (s.setDisplay d).v = s.v := rfl
@[simp] theorem State.setDisplay_i (d : Display) : (s.setDisplay d).i = s.i := rfl
@[simp] theorem State.setDisplay_pc (d : Display) : (s.setDisplay d).pc = s.pc := rfl
@[simp] theorem State.setDisplay_stack (d : Display) : (s.setDisplay d).stack = s.stack := rfl
@[simp] theorem State.setDisplay_sp (d : Display) : (s.setDisplay d).sp = s.sp := rfl
@[simp] theorem State.setDisplay_mem (d : Display) : (s.setDisplay d).mem = s.mem := rfl
@[simp] theorem State.setDisplay_display (d : Display) : (s.setDisplay d).display = d := rfl
@[simp] theorem State.setDisplay_dirty (d : Display) : (s.setDisplay d).dirty = s.dirty := rfl
@[simp] theorem State.setDisplay_dt (d : Display) : (s.setDisplay d).dt = s.dt := rfl
@[simp] theorem State.setDisplay_st (d : Display) : (s.setDisplay d).st = s.st := rfl
@[simp] theorem State.setDisplay_status (d : Display) : (s.setDisplay d).status = s.status := rfl
@[simp] theorem State.setDisplay_keys (d : Display) : (s.setDisplay d).keys = s.keys := rfl
@[simp] theorem State.setDisplay_draws (d : Display) : (s.setDisplay d).draws = s.draws := rfl
@[simp] theorem State.setDisplay_agenda (d : Display) : (s.setDisplay d).agenda = s.agenda := rfl
@[simp] theorem State.setDisplay_getV (d : Display) (r' : Nib) : (s.setDisplay d).getV r' = s.getV r' := rfl
@[simp] theorem State.setDisplay_readByte (d : Display) (a' : Nat) : (s.setDisplay d).readByte a' = s.readByte a' := rfl

/-! ### setDirty -/

@[simp] theorem State.setDirty_cfg (b : Bool) : (s.setDirty b).cfg = s.cfg := rfl
@[simp] theorem State.setDirty_v (b : Bool) : (s.setDirty b).v = s.v := rfl
@[simp] theorem State.setDirty_i (b : Bool) : (s.setDirty b).i = s.i := rfl
@[simp] theorem State.setDirty_pc (b : Bool) : (s.setDirty b).pc = s.pc := rfl
@[simp] theorem State.setDirty_stack (b : Bool) : (s.setDirty b).stack = s.stack := rfl
@[simp] theorem State.setDirty_sp (b : Bool) : (s.setDirty b).sp = s.sp := rfl
@[simp] theorem State.setDirty_mem (b : Bool) : (s.setDirty b).mem = s.mem := rfl
@[simp] theorem State.setDirty_display (b : Bool) : (s.setDirty b).display = s.display := rfl
@[simp] theorem State.setDirty_dirty (b : Bool) : (s.setDirty b).dirty = b := rfl
@[simp] theorem State.setDirty_dt (b : Bool) : (s.setDirty b).dt = s.dt := rfl
@[simp] theorem State.setDirty_st (b : Bool) : (s.setDirty b).st = s.st := rfl
@[simp] theorem State.setDirty_status (b : Bool) : (s.setDirty b).status = s.status := rfl
@[simp] theorem State.setDirty_keys (b : Bool) : (s.setDirty b).keys = s.keys := rfl
@[simp] theorem State.setDirty_draws (b : Bool) : (s.setDirty b).draws = s.draws := rfl
@[simp] theorem State.setDirty_agenda (b : Bool) : (s.setDirty b).agenda = s.agenda := rfl
@[simp] theorem State.setDirty_getV (b : Bool) (r' : Nib) : (s.setDirty b).getV r' = s.getV r' := rfl
@[simp] theorem State.setDirty_readByte (b : Bool) (a' : Nat) : (s.setDirty b).readByte a' = s.readByte a' := rfl

/-! ### setKeys -/

@[simp] theorem State.setKeys_cfg (w : Word) : (s.setKeys w).cfg = s.cfg := rfl
@[simp] theorem State.setKeys_v (w : Word) : (s.setKeys w).v = s.v := rfl
@[simp] theorem State.setKeys_i (w : Word) : (s.setKeys w).i = s.i := rfl
@[simp] theorem State.setKeys_pc (w : Word) : (s.setKeys w).pc = s.pc := rfl
@[simp] theorem State.setKeys_stack (w : Word) : (s.setKeys w).stack = s.stack := rfl
@[simp] theorem State.setKeys_sp (w : Word) : (s.setKeys w).sp = s.sp := rfl
@[simp] theorem State.setKeys_mem (w : Word) : (s.setKeys w).mem = s.mem := rfl
@[simp] theorem State.setKeys_display (w : Word) : (s.setKeys w).display = s.display := rfl
@[simp] theorem State.setKeys_dirty (w : Word) : (s.setKeys w).dirty = s.dirty := rfl
@[simp] theorem State.setKeys_dt (w : Word) : (s.setKeys w).dt = s.dt := rfl
@[simp] theorem State.setKeys_st (w : Word) : (s.setKeys w).st = s.st := rfl
@[simp] theorem State.setKeys_status (w : Word) : (s.setKeys w).status = s.status := rfl
@[simp] theorem State.setKeys_keys (w : Word) : (s.setKeys w).keys = w := rfl
@[simp] theorem State.setKeys_draws (w : Word) : (s.setKeys w).draws = s.draws := rfl
@[simp] theorem State.setKeys_agenda (w : Word) : (s.setKeys w).agenda = s.agenda := rfl
@[simp] theorem State.setKeys_getV (w : Word) (r' : Nib) : (s.setKeys w).getV r' = s.getV r' := rfl
@[simp] theorem State.setKeys_readByte (w : Word) (a' : Nat) : (s.setKeys w).readByte a' = s.readByte a' := rfl

/-! ### setAgenda -/

@[simp] theorem State.setAgenda_cfg (l : List Event) : (s.setAgenda l).cfg = s.cfg := rfl
@[simp] theorem State.setAgenda_v (l : List Event) : (s.setAgenda l).v = s.v := rfl
@[simp] theorem State.setAgenda_i (l : List Event) : (s.setAgenda l).i = s.i := rfl
@[simp] theorem State.setAgenda_pc (l : List Event) : (s.setAgenda l).pc = s.pc := rfl
@[simp] theorem State.setAgenda_stack (l : List Event) : (s.setAgenda l).stack = s.stack := rfl
@[simp] theorem State.setAgenda_sp (l : List Event) : (s.setAgenda l).sp = s.sp := rfl
@[simp] theorem State.setAgenda_mem (l : List Event) : (s.setAgenda l).mem = s.mem := rfl
@[simp] theorem State.setAgenda_display (l : List Event) : (s.setAgenda l).display = s.display := rfl
@[simp] theorem State.setAgenda_dirty (l : List Event) : (s.setAgenda l).dirty = s.dirty := rfl
@[simp] theorem State.setAgenda_dt (l : List Event) : (s.setAgenda l).dt = s.dt := rfl
@[simp] theorem State.setAgenda_st (l : List Event) : (s.setAgenda l).st = s.st := rfl
@[simp] theorem State.setAgenda_status (l : List Event) : (s.setAgenda l).status = s.status := rfl
@[simp] theorem State.setAgenda_keys (l : List Event) : (s.setAgenda l).keys = s.keys := rfl
@[simp] theorem State.setAgenda_draws (l : List Event) : (s.setAgenda l).draws = s.draws := rfl
@[simp] theorem State.setAgenda_agenda (l : List Event) : (s.setAgenda l).agenda = l := rfl
@[simp] theorem State.setAgenda_getV (l : List Event) (r' : Nib) : (s.setAgenda l).getV r' = s.getV r' := rfl
@[simp] theorem State.setAgenda_readByte (l : List Event) (a' : Nat) : (s.setAgenda l).readByte a' = s.readByte a' := rfl

/-! ### countDraw -/

@[simp] theorem State.countDraw_cfg : (s.countDraw).cfg = s.cfg := rfl
@[simp] theorem State.countDraw_v : (s.countDraw).v = s.v := rfl
@[simp] theorem State.countDraw_i : (s.countDraw).i = s.i := rfl
@[simp] theorem State.countDraw_pc : (s.countDraw).pc = s.pc := rfl
@[simp] theorem State.countDraw_stack : (s.countDraw).stack = s.stack := rfl
@[simp] theorem State.countDraw_sp : (s.countDraw).sp = s.sp := rfl
@[simp] theorem State.countDraw_mem : (s.countDraw).mem = s.mem := rfl
@[simp] theorem State.countDraw_display : (s.countDraw).display = s.display := rfl
@[simp] theorem State.countDraw_dirty : (s.countDraw).dirty = s.dirty := rfl
@[simp] theorem State.countDraw_dt : (s.countDraw).dt = s.dt := rfl
@[simp] theorem State.countDraw_st : (s.countDraw).st = s.st := rfl
@[simp] theorem State.countDraw_status : (s.countDraw).status = s.status := rfl
@[simp] theorem State.countDraw_keys : (s.countDraw).keys = s.keys := rfl
@[simp] theorem State.countDraw_draws : (s.countDraw).draws = s.draws + 1 := rfl
@[simp] theorem State.countDraw_agenda : (s.countDraw).agenda = s.agenda := rfl
@[simp] theorem State.countDraw_getV (r' : Nib) : (s.countDraw).getV r' = s.getV r' := rfl
@[simp] theorem State.countDraw_readByte (a' : Nat) : (s.countDraw).readByte a' = s.readByte a' := rfl

/-! ### writeByte -/

@[simp] theorem State.writeByte_cfg (a : Nat) (b : Byte) : (s.writeByte a b).cfg = s.cfg := rfl
@[simp] theorem State.writeByte_v (a : Nat) (b : Byte) : (s.writeByte a b).v = s.v := rfl
@[simp] theorem State.writeByte_i (a : Nat) (b : Byte) : (s.writeByte a b).i = s.i := rfl
@[simp] theorem State.writeByte_pc (a : Nat) (b : Byte) : (s.writeByte a b).pc = s.pc := rfl
@[simp] theorem State.writeByte_stack (a : Nat) (b : Byte) : (s.writeByte a b).stack = s.stack := rfl
@[simp] theorem State.writeByte_sp (a : Nat) (b : Byte) : (s.writeByte a b).sp = s.sp := rfl
@[simp] theorem State.writeByte_mem (a : Nat) (b : Byte) : (s.writeByte a b).mem = s.mem.write s.cfg a b := rfl
@[simp] theorem State.writeByte_display (a : Nat) (b : Byte) : (s.writeByte a b).display = s.display := rfl
@[simp] theorem State.writeByte_dirty (a : Nat) (b : Byte) : (s.writeByte a b).dirty = s.dirty := rfl
@[simp] theorem State.writeByte_dt (a : Nat) (b : Byte) : (s.writeByte a b).dt = s.dt := rfl
@[simp] theorem State.writeByte_st (a : Nat) (b : Byte) : (s.writeByte a b).st = s.st := rfl
@[simp] theorem State.writeByte_status (a : Nat) (b : Byte) : (s.writeByte a b).status = s.status := rfl
@[simp] theorem State.writeByte_keys (a : Nat) (b : Byte) : (s.writeByte a b).keys = s.keys := rfl
@[simp] theorem State.writeByte_draws (a : Nat) (b : Byte) : (s.writeByte a b).draws = s.draws := rfl
@[simp] theorem State.writeByte_agenda (a : Nat) (b : Byte) : (s.writeByte a b).agenda = s.agenda := rfl
@[simp] theorem State.writeByte_getV (a : Nat) (b : Byte) (r' : Nib) : (s.writeByte a b).getV r' = s.getV r' := rfl

/-! ### Registers -/

theorem State.getV_setV (r r' : Nib) (b : Byte) :
    (s.setV r b).getV r' = if r' = r then b else s.getV r' := by
  by_cases h : r' = r
  · subst h; simp [State.getV, State.setV]
  · have h' : r.toNat ≠ r'.toNat := fun e => h (BitVec.eq_of_toNat_eq e.symm)
    simp [State.getV, State.setV, h, Vector.getElem_set_ne _ _ h']

@[simp] theorem State.getV_setV_same (r : Nib) (b : Byte) : (s.setV r b).getV r = b := by
  simp [State.getV_setV]

theorem State.getV_setV_other {r r' : Nib} (h : r' ≠ r) (b : Byte) :
    (s.setV r b).getV r' = s.getV r' := by
  simp [State.getV_setV, h]

/-- Two register files that read the same are the same. -/
theorem State.v_ext {s t : State} (h : ∀ r, t.getV r = s.getV r) : t.v = s.v := by
  apply Vector.ext
  intro k hk
  have := h (BitVec.ofNat 4 k)
  simpa [State.getV, BitVec.toNat_ofNat, Nat.mod_eq_of_lt hk] using this

/-! ### Derived updates -/

@[simp] theorem State.advance_eq : s.advance = s.setPc (s.pc + 2#16) := rfl

@[simp] theorem State.fetchAddr_eq : s.fetchAddr = s.pc - 2#16 := rfl

/-- While an instruction executes, `fetchAddr` is where it was fetched from (log 13). -/
theorem State.fetchAddr_advance : s.advance.fetchAddr = s.pc := by
  simp

theorem State.skipIf_eq (cond : Bool) :
    s.skipIf cond = s.setPc (if cond then s.pc + 2#16 else s.pc) := by
  cases cond <;> rfl

theorem State.push_eq (w : Word) : s.push w = s.setStack (s.stack.set s.sp w) (s.sp + 1) := rfl

theorem State.pop_eq : s.pop = s.setStack s.stack (s.sp - 1) := rfl

@[simp] theorem State.setPc_self : s.setPc s.pc = s := rfl

@[simp] theorem State.setPc_setPc (a b : Word) : (s.setPc a).setPc b = s.setPc b := rfl

end Sys2Proof.Machine
end

