-- ==== Sys2Proof/Laws/Memory.lean ====
section
/-! SUPPORT. Memory (20_memory.md R33 to R36): a read after a write, that every operation keeps the
canonical form, and what the multi-byte operations do. -/

namespace Sys2Proof.Machine

/-! ### Cells -/

theorem cellAt_dropCell (c : Config) (a b : Nat) (m : Memory) :
    cellAt c (dropCell a m) b = if b = a then resetByte c a else cellAt c m b := by
  induction m with
  | nil => by_cases h : b = a <;> simp [dropCell, cellAt, h]
  | cons cell rest ih =>
    have ih' : cellAt c (List.filter (fun cell => cell.1 != a) rest) b = _ := ih
    by_cases hc : cell.1 = a
    · by_cases hb : b = a
      · simp [dropCell, hc, hb] at ih' ⊢; exact ih'
      · have : ¬ cell.1 = b := fun e => hb (e ▸ hc)
        simp [dropCell, cellAt, hc, hb] at ih' ⊢
        simp [ih', show ¬ a = b from fun e => hb e.symm]
    · by_cases hb : cell.1 = b
      · simp [dropCell, cellAt, hb, show ¬ b = a from fun e => hc (hb.trans e)]
      · simp [dropCell, cellAt, hc, hb, ih']

theorem cellAt_insertCell_same (c : Config) (a : Nat) (v : Byte) (m : Memory)
    (h : ∀ cell ∈ m, cell.1 ≠ a) : cellAt c (insertCell a v m) a = v := by
  induction m with
  | nil => simp [insertCell, cellAt]
  | cons cell rest ih =>
    simp only [List.mem_cons, forall_eq_or_imp] at h
    by_cases hlt : a < cell.1
    · simp [insertCell, cellAt, hlt]
    · simp [insertCell, cellAt, hlt, h.1, ih h.2]

theorem cellAt_insertCell_other (c : Config) {a b : Nat} (hb : b ≠ a) (v : Byte) (m : Memory) :
    cellAt c (insertCell a v m) b = cellAt c m b := by
  induction m with
  | nil => simp [insertCell, cellAt, hb.symm]
  | cons cell rest ih =>
    by_cases hlt : a < cell.1
    · simp [insertCell, cellAt, hlt, hb.symm]
    · simp [insertCell, cellAt, hlt, ih]

theorem dropCell_no_cell (a : Nat) (m : Memory) : ∀ cell ∈ dropCell a m, cell.1 ≠ a := by
  intro cell h
  simpa [dropCell] using (List.mem_filter.1 h).2

/-- Reading a cell after any cell was set. -/
theorem cellAt_putCell (c : Config) (m : Memory) (a b : Nat) (v : Byte) :
    cellAt c (putCell c m a v) b = if b = a then v else cellAt c m b := by
  unfold putCell
  by_cases hv : v = resetByte c a
  · simp only [if_pos hv, cellAt_dropCell]
    by_cases hb : b = a <;> simp [hb, hv]
  · simp only [if_neg hv]
    by_cases hb : b = a
    · subst hb
      simp [cellAt_insertCell_same c b v _ (dropCell_no_cell b m)]
    · simp [cellAt_insertCell_other c hb, cellAt_dropCell, hb]

/-! ### The canonical form -/

theorem wfFrom_mono (c : Config) {low low' : Nat} (h : low' ≤ low) (m : Memory)
    (hm : wfFrom c low m = true) : wfFrom c low' m = true := by
  cases m with
  | nil => rfl
  | cons cell rest =>
    simp only [wfFrom, Bool.and_eq_true, decide_eq_true_eq] at hm ⊢
    exact ⟨⟨⟨h.trans hm.1.1.1, hm.1.1.2⟩, hm.1.2⟩, hm.2⟩

theorem wfFrom_dropCell (c : Config) (a low : Nat) (m : Memory) (hm : wfFrom c low m = true) :
    wfFrom c low (dropCell a m) = true := by
  induction m generalizing low with
  | nil => rfl
  | cons cell rest ih =>
    simp only [wfFrom, Bool.and_eq_true, decide_eq_true_eq] at hm
    have ih' := ih (cell.1 + 1) hm.2
    by_cases hc : cell.1 = a
    · have : dropCell a (cell :: rest) = dropCell a rest := by simp [dropCell, hc]
      rw [this]
      exact wfFrom_mono c (by omega) _ ih'
    · have : dropCell a (cell :: rest) = cell :: dropCell a rest := by simp [dropCell, hc]
      rw [this]
      simp only [wfFrom, Bool.and_eq_true, decide_eq_true_eq]
      exact ⟨hm.1, ih'⟩

theorem wfFrom_insertCell (c : Config) {a low : Nat} {v : Byte} (m : Memory)
    (hlow : low ≤ a) (ha : a < memSize) (hv : v ≠ resetByte c a)
    (hno : ∀ cell ∈ m, cell.1 ≠ a) (hm : wfFrom c low m = true) :
    wfFrom c low (insertCell a v m) = true := by
  induction m generalizing low with
  | nil => simp [insertCell, wfFrom, hlow, ha, hv]
  | cons cell rest ih =>
    simp only [wfFrom, Bool.and_eq_true, decide_eq_true_eq] at hm
    simp only [List.mem_cons, forall_eq_or_imp] at hno
    by_cases hlt : a < cell.1
    · have h1 : a + 1 ≤ cell.1 := hlt
      simp [insertCell, hlt, wfFrom, hlow, ha, hv, h1, hm.1.1.2, hm.1.2, hm.2]
    · have := ih (low := cell.1 + 1) (by have := hno.1; omega) hno.2 hm.2
      simp [insertCell, hlt, wfFrom, this, hm.1.1.1, hm.1.1.2, hm.1.2]

theorem busAddress_lt (a : Nat) : busAddress a < memSize := Nat.mod_lt _ (by decide)

/-- `MemWrite` keeps the canonical form. -/
theorem Memory.write_wf (c : Config) (m : Memory) (a : Nat) (v : Byte) (hm : m.wf c = true) :
    (m.write c a v).wf c = true := by
  unfold Memory.write Memory.wf putCell
  split
  · exact wfFrom_dropCell c _ 0 m hm
  · exact wfFrom_insertCell c _ (Nat.zero_le _) (busAddress_lt a) (by assumption)
      (dropCell_no_cell _ m) (wfFrom_dropCell c _ 0 m hm)

/-- Memory after reset is in the canonical form. -/
theorem Memory.reset_wf (c : Config) : Memory.wf c (resetWith c).mem = true := rfl

/-! ### Reads and writes of the state -/

/-- `MemRead` after `MemWrite` (R34, R35), on every state. -/
theorem State.readByte_writeByte (s : State) (a b : Nat) (v : Byte) :
    (s.writeByte a v).readByte b = if busAddress b = busAddress a then v else s.readByte b := by
  simp [State.readByte, Memory.read, Memory.write, cellAt_putCell]

/-- Two addresses of one access are different cells when they differ by less than the memory size. -/
theorem busAddress_add_ne (a : Nat) {j k : Nat} (hjk : j < k) (hk : k - j < memSize) :
    busAddress (a + j) ≠ busAddress (a + k) := by
  intro h
  unfold busAddress memSize at *
  omega

theorem State.writeBytes_fields (a : Nat) (bs : List Byte) (s : State) :
    ∃ m, State.writeBytes a bs s = { s with mem := m } := by
  induction bs generalizing a s with
  | nil => exact ⟨s.mem, rfl⟩
  | cons b bs ih =>
    obtain ⟨m, hm⟩ := ih (a + 1) (s.writeByte a b)
    exact ⟨m, hm⟩

theorem State.writeBytes_wf (a : Nat) (bs : List Byte) (s : State) (h : s.mem.wf s.cfg = true) :
    (State.writeBytes a bs s).mem.wf s.cfg = true := by
  induction bs generalizing a s with
  | nil => exact h
  | cons b bs ih => exact ih (a + 1) (s.writeByte a b) (Memory.write_wf _ _ _ _ h)

/-- The frame of a store of `bs` at `a`: every other byte reads as before. -/
theorem State.writeBytes_other (a : Nat) (bs : List Byte) (s : State) (b : Nat)
    (h : ∀ k, k < bs.length → busAddress b ≠ busAddress (a + k)) :
    (State.writeBytes a bs s).readByte b = s.readByte b := by
  induction bs generalizing a s with
  | nil => rfl
  | cons x xs ih =>
    have h0 := h 0 (by simp)
    have := ih (a + 1) (s.writeByte a x) (fun k hk => by
      have := h (k + 1) (by simpa using hk)
      rwa [show a + 1 + k = a + (k + 1) by omega])
    simp only [State.writeBytes, this, State.readByte_writeByte]
    simp at h0
    simp [h0]

/-- A store of at most 4096 bytes: each byte reads back. -/
theorem State.writeBytes_same (a : Nat) (bs : List Byte) (s : State) (hlen : bs.length ≤ memSize)
    (k : Nat) (hk : k < bs.length) : (State.writeBytes a bs s).readByte (a + k) = bs[k] := by
  induction bs generalizing a s k with
  | nil => simp at hk
  | cons x xs ih =>
    simp only [List.length_cons] at hlen hk
    cases k with
    | zero =>
      have := State.writeBytes_other (a + 1) xs (s.writeByte a x) a (fun k hk' => by
        have := busAddress_add_ne a (j := 0) (k := k + 1) (by omega) (by omega)
        rwa [show a + 1 + k = a + (k + 1) by omega])
      simp [State.writeBytes, this, State.readByte_writeByte]
    | succ k =>
      have := ih (a + 1) (s.writeByte a x) (by omega) k (by omega)
      rw [show a + 1 + k = a + (k + 1) by omega] at this
      simpa [State.writeBytes] using this

@[simp] theorem State.bytesFrom_length (s : State) (a n : Nat) : (s.bytesFrom a n).length = n := by
  simp [State.bytesFrom]

theorem State.bytesFrom_getElem (s : State) (a n k : Nat) (hk : k < (s.bytesFrom a n).length) :
    (s.bytesFrom a n)[k] = s.readByte (a + k) := by
  simp [State.bytesFrom]

@[simp] theorem State.regBytes_length (s : State) (x : Nib) : (s.regBytes x).length = x.toNat + 1 := by
  simp [State.regBytes, regCount]

theorem State.regBytes_getElem (s : State) (x : Nib) (k : Nat) (hk : k < (s.regBytes x).length) :
    (s.regBytes x)[k] = s.getV (regOfNat k) := by
  simp [State.regBytes]

@[simp] theorem decimalDigits_length (b : Byte) : (decimalDigits b).length = 3 := rfl

theorem State.setRegsFrom_fields (k : Nat) (bs : List Byte) (s : State) :
    ∃ v, State.setRegsFrom k bs s = { s with v := v } := by
  induction bs generalizing k s with
  | nil => exact ⟨s.v, rfl⟩
  | cons b bs ih =>
    obtain ⟨v, hv⟩ := ih (k + 1) (s.setV (regOfNat k) b)
    exact ⟨v, hv⟩

/-- What `setRegsFrom` leaves in each register. -/
theorem State.setRegsFrom_getV (k : Nat) (bs : List Byte) (s : State) (hlen : k + bs.length ≤ 16)
    (r : Nib) :
    (State.setRegsFrom k bs s).getV r =
      if h : k ≤ r.toNat ∧ r.toNat - k < bs.length then bs[r.toNat - k] else s.getV r := by
  induction bs generalizing k s with
  | nil => simp [State.setRegsFrom]
  | cons b bs ih =>
    simp only [List.length_cons] at hlen
    have hreg : (regOfNat k).toNat = k := by
      simp [regOfNat, BitVec.toNat_ofNat]; omega
    rw [State.setRegsFrom, ih (k + 1) _ (by omega)]
    by_cases hk : r.toNat = k
    · have hr : r = regOfNat k := BitVec.eq_of_toNat_eq (by rw [hreg, hk])
      rw [dif_neg (by omega), dif_pos (by simp [hk])]
      simp [hr, hreg]
    · have hr : r ≠ regOfNat k := fun e => hk (by rw [e, hreg])
      by_cases hin : k + 1 ≤ r.toNat ∧ r.toNat - (k + 1) < bs.length
      · rw [dif_pos hin, dif_pos (by simp; omega)]
        have : r.toNat - k = r.toNat - (k + 1) + 1 := by omega
        simp [this]
      · rw [dif_neg hin, dif_neg (by simp; omega)]
        exact State.getV_setV_other s hr b

end Sys2Proof.Machine
end

