-- ==== Sys2Proof/Laws/Cycle.lean ====
section
/-! SUPPORT. What a move of the machine can do: one equation per case, cited instead of unfolding
`step`. -/

namespace Sys2Proof.Machine

theorem raise_eq (cause : Cause) (a w : Word) (s : State) :
    raise cause a w s = .next (s.setStatus (haltStatus cause a w)) := rfl

theorem raiseBy_eq (cause : Cause) (i : Instr) (s : State) :
    raiseBy cause i s = .next (s.setStatus (haltStatus cause (s.pc - 2#16) (encode i))) := rfl

/-- A Step's turn: the step is the instruction cycle on the rest of the schedule. -/
theorem step_of_stepTurn {s : State} {rest : List Event} (h : stepTurn s.agenda rest) :
    step s = instructionCycle (s.setAgenda rest) := by
  rcases h with ⟨h, rfl⟩ | h
  · have hs : s.setAgenda [] = s := by cases s; simp_all [State.setAgenda]
    simp [step, machineMove, h, hs]
  · simp [step, machineMove, h, takeEvent]

/-- The other moves. -/
theorem step_of_event {s : State} {e : Event} {rest : List Event} (h : s.agenda = e :: rest) :
    step s = takeEvent e (s.setAgenda rest) := by
  simp [step, machineMove, h]

theorem instructionCycle_halted {s : State} (h : s.status.run = false) :
    instructionCycle s = .fault (.halted s.status.cause) := by
  simp [instructionCycle, h]

theorem instructionCycle_fetchRange {s : State} (h : s.status.run = true)
    (hr : rangeFault s.cfg s.pc.toNat 2 = true) : instructionCycle s = raiseFetchRange s := by
  simp [instructionCycle, h, hr]

theorem instructionCycle_exec {s : State} {i : Instr} (h : s.status.run = true)
    (hr : rangeFault s.cfg s.pc.toNat 2 = false) (hd : decode s.fetchWord = some i) :
    instructionCycle s = exec i s.advance := by
  simp [instructionCycle, h, hr, hd]

theorem instructionCycle_illegal {s : State} (h : s.status.run = true)
    (hr : rangeFault s.cfg s.pc.toNat 2 = false) (hd : decode s.fetchWord = none) :
    instructionCycle s = raise .decodeError s.pc s.fetchWord s.advance := by
  simp [instructionCycle, h, hr, hd]

/-- Everything one Step can do (30_encoding.md R50 to R53). -/
theorem instructionCycle_cases (s : State) :
    (s.status.run = false ∧ instructionCycle s = .fault (.halted s.status.cause)) ∨
    (s.status.run = true ∧ rangeFault s.cfg s.pc.toNat 2 = true ∧
      instructionCycle s = raiseFetchRange s) ∨
    (s.status.run = true ∧ rangeFault s.cfg s.pc.toNat 2 = false ∧ decode s.fetchWord = none ∧
      instructionCycle s = raise .decodeError s.pc s.fetchWord s.advance) ∨
    (s.status.run = true ∧ rangeFault s.cfg s.pc.toNat 2 = false ∧
      ∃ i, decode s.fetchWord = some i ∧ instructionCycle s = exec i s.advance) := by
  cases hr : s.status.run with
  | false => exact .inl ⟨rfl, instructionCycle_halted hr⟩
  | true =>
    cases hf : rangeFault s.cfg s.pc.toNat 2 with
    | true => exact .inr (.inl ⟨rfl, rfl, instructionCycle_fetchRange hr hf⟩)
    | false =>
      cases hd : decode s.fetchWord with
      | none => exact .inr (.inr (.inl ⟨rfl, rfl, rfl, instructionCycle_illegal hr hf hd⟩))
      | some i => exact .inr (.inr (.inr ⟨rfl, rfl, i, rfl, instructionCycle_exec hr hf hd⟩))

/-- Everything one move can do: a Step, or one scheduled event of the clock or the Host. -/
theorem step_cases (s : State) :
    (∃ rest, stepTurn s.agenda rest ∧ step s = instructionCycle (s.setAgenda rest)) ∨
    (∃ rest, s.agenda = .tick :: rest ∧ step s = .next (tick (s.setAgenda rest))) ∨
    (∃ levels rest, s.agenda = .keys levels :: rest ∧
      step s = .next ((s.setAgenda rest).setKeys levels)) ∨
    (∃ rest, s.agenda = .snapshot :: rest ∧ step s = .next (snapshot (s.setAgenda rest))) ∨
    (∃ image rest, s.agenda = .restart image :: rest ∧
      step s = restart image (s.setAgenda rest)) := by
  cases ha : s.agenda with
  | nil => exact .inl ⟨[], .inl ⟨rfl, rfl⟩, step_of_stepTurn (.inl ⟨ha, rfl⟩)⟩
  | cons e rest =>
    cases e with
    | step => exact .inl ⟨rest, .inr rfl, step_of_stepTurn (.inr ha)⟩
    | tick => exact .inr (.inl ⟨rest, rfl, step_of_event ha⟩)
    | keys levels => exact .inr (.inr (.inl ⟨levels, rest, rfl, step_of_event ha⟩))
    | snapshot => exact .inr (.inr (.inr (.inl ⟨rest, rfl, step_of_event ha⟩)))
    | restart image => exact .inr (.inr (.inr (.inr ⟨image, rest, rfl, step_of_event ha⟩)))

end Sys2Proof.Machine
end

