-- ==== Sys2Proof/Laws/Display.lean ====
section
/-! SUPPORT. The compositor (43_display.md R111 to R113): what toggling a pixel does to each pixel. -/

namespace Sys2Proof.Machine

theorem columnBit_getMsbD (x x' : Fin 64) : (columnBit x).getMsbD x'.val = decide (x' = x) := by
  have h1 := x.isLt
  have h2 := x'.isLt
  simp only [columnBit, BitVec.getMsbD_shiftLeft, BitVec.getMsbD_one]
  by_cases h : x' = x
  · subst h; simp; omega
  · have : x'.val ≠ x.val := fun e => h (Fin.ext e)
    simp [h]; omega

/-- `set_pixel` toggles its pixel and no other (R113). -/
theorem pixel_togglePixel (d : Display) (y y' : Fin 32) (x x' : Fin 64) :
    pixel (togglePixel d y x) y' x' = (pixel d y' x' ^^ decide (y' = y ∧ x' = x)) := by
  by_cases hy : y' = y
  · subst hy
    simp [pixel, togglePixel, columnBit_getMsbD]
  · have : y.val ≠ y'.val := fun e => hy (Fin.ext e.symm)
    simp [pixel, togglePixel, hy, Vector.getElem_set_ne _ _ this]

/-- Two displays with the same pixels are the same. -/
theorem display_ext {d d' : Display} (h : ∀ y x, pixel d y x = pixel d' y x) : d = d' := by
  apply Vector.ext
  intro k hk
  apply BitVec.eq_of_getMsbD_eq
  intro j hj
  exact h ⟨k, hk⟩ ⟨j, hj⟩

theorem pixel_blank (y : Fin 32) (x : Fin 64) :
    pixel (Vector.replicate 32 0#64) y x = false := by
  simp [pixel]

end Sys2Proof.Machine
end

