-- ==== Sys2Proof/Laws/Frames.lean ====
section
/-! SUPPORT. Frames of the shared operations, and everything each operation that can stop or fault can
answer; the meanings' own proofs cite these instead of unfolding them. -/

namespace Sys2Proof.Machine

/-! ### Frames -/

theorem SameExcept.mono {a b : List Part} {s t : State} (h : SameExcept a s t)
    (hab : ∀ p ∈ a, p ∈ b) : SameExcept b s t :=
  fun p hp => h p fun h' => hp (hab p h')

theorem SameExcept.refl (a : List Part) (s : State) : SameExcept a s s := by
  intro p _; cases p <;> simp [agreeOn]

theorem SameExcept.trans {a : List Part} {s t u : State} (h : SameExcept a s t)
    (h' : SameExcept a t u) : SameExcept a s u := by
  intro p hp
  have h1 := h p hp
  have h2 := h' p hp
  cases p <;> simp_all [agreeOn]

/-- A store changes memory alone. -/
theorem State.writeBytes_frame (a : Nat) (bs : List Byte) (s : State) :
    SameExcept [.mem] s (State.writeBytes a bs s) := by
  obtain ⟨m, hm⟩ := State.writeBytes_fields a bs s
  intro p hp
  cases p <;> simp_all [agreeOn]; exact fun _ => rfl

/-- A load of registers changes registers alone. -/
theorem State.setRegsFrom_frame (k : Nat) (bs : List Byte) (s : State) :
    SameExcept [.v] s (State.setRegsFrom k bs s) := by
  obtain ⟨v, hv⟩ := State.setRegsFrom_fields k bs s
  intro p hp
  cases p <;> simp_all [agreeOn]; exact fun _ => rfl

/-- A Tick changes the timers alone. -/
theorem tick_frame (s : State) : SameExcept [.dt, .st] s (tick s) := by
  unfold tick
  split <;> (intro p hp; cases p <;> simp_all [agreeOn])

/-! ### What the shared operations answer -/

/-- A store at I either raises AddressRange, changing STATUS alone, or stores its bytes. -/
theorem storeAtI_cases (i : Instr) (bs : List Byte) (s : State) :
    (rangeFault s.cfg s.i.toNat bs.length = true ∧
      storeAtI i bs s =
        .next (s.setStatus (haltStatus .addressRange (s.pc - 2#16) (encode i)))) ∨
    (rangeFault s.cfg s.i.toNat bs.length = false ∧
      storeAtI i bs s = .next (State.writeBytes s.i.toNat bs s)) := by
  cases h : rangeFault s.cfg s.i.toNat bs.length <;> simp [storeAtI, h, raiseBy_eq]

/-- A key skip either stops on a value above 15 under NIBBLE_OPERAND = `fault`, or sets pc alone. -/
theorem skipOnKey_cases (x : Nib) (level : Bool) (s : State) :
    (nibbleFault s.cfg (s.getV x) = true ∧ skipOnKey x level s = .fault .nibbleOperand) ∨
    (nibbleFault s.cfg (s.getV x) = false ∧
      skipOnKey x level s =
        .next (s.setPc (if s.keyDown (lowNibble (s.getV x)) == level then s.pc + 2#16
          else s.pc))) := by
  cases h : nibbleFault s.cfg (s.getV x) <;> simp [skipOnKey, h, State.skipIf_eq]

/-- A key choice draws at most one free value. -/
theorem State.afterKeyChoice_cases (s : State) :
    s.afterKeyChoice = s ∨ s.afterKeyChoice = s.countDraw := by
  unfold State.afterKeyChoice
  split <;> simp

theorem rangeFault_wrap {c : Config} (h : c.addrOor = .wrap) (a n : Nat) :
    rangeFault c a n = false := by
  simp [rangeFault, h]

theorem rangeFault_config {c : Config} {a n : Nat} (h : rangeFault c a n = true) :
    c.addrOor = .fault := by
  simp [rangeFault] at h
  exact h.1

theorem nibbleFault_false {c : Config} {b : Byte} (h : c.nibbleOperand = .mask ∨ b.toNat ≤ 15) :
    nibbleFault c b = false := by
  rcases h with h | h <;> simp [nibbleFault, h]

/-! ### Operands and flags as numbers -/

theorem zextAddr_toNat (nnn : Addr) : (zextAddr nnn).toNat = nnn.toNat := by
  have := nnn.isLt
  simp [zextAddr]
  omega

theorem zextByte_toNat (b : Byte) : (zextByte b).toNat = b.toNat := by
  have := b.isLt
  simp [zextByte]
  omega

theorem lowNibble_eq (b : Byte) : lowNibble b = b.toNat % 16 := by
  simp only [lowNibble, BitVec.toNat_and]
  exact Nat.and_two_pow_sub_one_eq_mod b.toNat 4

theorem regOfNat_toNat (r : Nib) : regOfNat r.toNat = r := by simp [regOfNat]

theorem countDown_toNat (b : Byte) : (countDown b).toNat = b.toNat - 1 := by
  unfold countDown
  split
  · next h => simp [h]
  · next h =>
    have hb : b.toNat ≠ 0 := fun e => h (BitVec.eq_of_toNat_eq (by simpa using e))
    have := b.isLt
    simp [BitVec.toNat_sub]
    omega

/-! ### The draw (43_display.md R111) -/

/-- The pixel a sprite bit falls on, without the model's `Option`. -/
theorem target_eq_some (e : DrawEdge) (py px : Nat) (row : Fin 32) (col : Fin 64) :
    target e py px = some (row, col) ↔ landsOn e py px row col := by
  have := row.isLt
  have := col.isLt
  cases e <;> simp [target, landsOn, Fin.ext_iff, Fin.ofNat]; omega

/-- One set sprite bit toggles the pixel it falls on and no other. -/
theorem pixel_plot (e : DrawEdge) (py px : Nat) (c : Canvas) (row : Fin 32) (col : Fin 64) :
    pixel (plot e py px c).1 row col =
      (pixel c.1 row col ^^ decide (target e py px = some (row, col))) := by
  unfold plot
  cases target e py px with
  | none => simp
  | some p => simp [setPixel, pixel_togglePixel, Prod.ext_iff, eq_comm]

/-- One set sprite bit collides exactly where the pixel it falls on was set. -/
theorem collided_plot (e : DrawEdge) (py px : Nat) (c : Canvas) :
    (plot e py px c).2 = true ↔
      c.2 = true ∨ ∃ row col, target e py px = some (row, col) ∧ pixel c.1 row col = true := by
  unfold plot
  cases target e py px with
  | none => simp
  | some p => obtain ⟨row, col⟩ := p; simp [setPixel]

end Sys2Proof.Machine
end

