-- ==== Sys2Proof/Laws/PerInstr.lean ====
section
/-! SUPPORT. What holds of every instruction as syntax, one lemma per constructor: its word has the
pattern of its own row of the opcode map (30_encoding.md R56). -/

namespace Sys2Proof.Laws.Pattern

/-- The word of `i` matches the mask and match of its row, which the map lists. -/
def Statement (i : Instr) : Prop := rowOf i ∈ opcodeRows ∧ matchesRow (encode i) (rowOf i)

theorem cls : Statement (.cls) :=
  ⟨by decide, by decide⟩

theorem ret : Statement (.ret) :=
  ⟨by decide, by decide⟩

theorem jpNnn (nnn : Addr) : Statement (.jpNnn nnn) :=
  ⟨(by decide : ((0xF000, 0x1000) : Word × Word) ∈ opcodeRows),
    formatNNN_mask _ _⟩

theorem callNnn (nnn : Addr) : Statement (.callNnn nnn) :=
  ⟨(by decide : ((0xF000, 0x2000) : Word × Word) ∈ opcodeRows),
    formatNNN_mask _ _⟩

theorem seVxNn (x : Nib) (nn : Byte) : Statement (.seVxNn x nn) :=
  ⟨(by decide : ((0xF000, 0x3000) : Word × Word) ∈ opcodeRows),
    formatXNN_mask_op _ _ _⟩

theorem sneVxNn (x : Nib) (nn : Byte) : Statement (.sneVxNn x nn) :=
  ⟨(by decide : ((0xF000, 0x4000) : Word × Word) ∈ opcodeRows),
    formatXNN_mask_op _ _ _⟩

theorem seVxVy (x y : Nib) : Statement (.seVxVy x y) :=
  ⟨(by decide : ((0xF00F, 0x5000) : Word × Word) ∈ opcodeRows),
    formatXYN_mask_function _ _ _ _⟩

theorem ldVxNn (x : Nib) (nn : Byte) : Statement (.ldVxNn x nn) :=
  ⟨(by decide : ((0xF000, 0x6000) : Word × Word) ∈ opcodeRows),
    formatXNN_mask_op _ _ _⟩

theorem addVxNn (x : Nib) (nn : Byte) : Statement (.addVxNn x nn) :=
  ⟨(by decide : ((0xF000, 0x7000) : Word × Word) ∈ opcodeRows),
    formatXNN_mask_op _ _ _⟩

theorem ldVxVy (x y : Nib) : Statement (.ldVxVy x y) :=
  ⟨(by decide : ((0xF00F, 0x8000) : Word × Word) ∈ opcodeRows),
    formatXYN_mask_function _ _ _ _⟩

theorem orVxVy (x y : Nib) : Statement (.orVxVy x y) :=
  ⟨(by decide : ((0xF00F, 0x8001) : Word × Word) ∈ opcodeRows),
    formatXYN_mask_function _ _ _ _⟩

theorem andVxVy (x y : Nib) : Statement (.andVxVy x y) :=
  ⟨(by decide : ((0xF00F, 0x8002) : Word × Word) ∈ opcodeRows),
    formatXYN_mask_function _ _ _ _⟩

theorem xorVxVy (x y : Nib) : Statement (.xorVxVy x y) :=
  ⟨(by decide : ((0xF00F, 0x8003) : Word × Word) ∈ opcodeRows),
    formatXYN_mask_function _ _ _ _⟩

theorem addVxVy (x y : Nib) : Statement (.addVxVy x y) :=
  ⟨(by decide : ((0xF00F, 0x8004) : Word × Word) ∈ opcodeRows),
    formatXYN_mask_function _ _ _ _⟩

theorem subVxVy (x y : Nib) : Statement (.subVxVy x y) :=
  ⟨(by decide : ((0xF00F, 0x8005) : Word × Word) ∈ opcodeRows),
    formatXYN_mask_function _ _ _ _⟩

theorem shrVxVy (x y : Nib) : Statement (.shrVxVy x y) :=
  ⟨(by decide : ((0xF00F, 0x8006) : Word × Word) ∈ opcodeRows),
    formatXYN_mask_function _ _ _ _⟩

theorem subnVxVy (x y : Nib) : Statement (.subnVxVy x y) :=
  ⟨(by decide : ((0xF00F, 0x8007) : Word × Word) ∈ opcodeRows),
    formatXYN_mask_function _ _ _ _⟩

theorem shlVxVy (x y : Nib) : Statement (.shlVxVy x y) :=
  ⟨(by decide : ((0xF00F, 0x800E) : Word × Word) ∈ opcodeRows),
    formatXYN_mask_function _ _ _ _⟩

theorem sneVxVy (x y : Nib) : Statement (.sneVxVy x y) :=
  ⟨(by decide : ((0xF00F, 0x9000) : Word × Word) ∈ opcodeRows),
    formatXYN_mask_function _ _ _ _⟩

theorem ldINnn (nnn : Addr) : Statement (.ldINnn nnn) :=
  ⟨(by decide : ((0xF000, 0xA000) : Word × Word) ∈ opcodeRows),
    formatNNN_mask _ _⟩

theorem jpV0Nnn (nnn : Addr) : Statement (.jpV0Nnn nnn) :=
  ⟨(by decide : ((0xF000, 0xB000) : Word × Word) ∈ opcodeRows),
    formatNNN_mask _ _⟩

theorem rndVxNn (x : Nib) (nn : Byte) : Statement (.rndVxNn x nn) :=
  ⟨(by decide : ((0xF000, 0xC000) : Word × Word) ∈ opcodeRows),
    formatXNN_mask_op _ _ _⟩

theorem drwVxVyN (x y n : Nib) : Statement (.drwVxVyN x y n) :=
  ⟨(by decide : ((0xF000, 0xD000) : Word × Word) ∈ opcodeRows),
    formatXYN_mask_op _ _ _ _⟩

theorem skpVx (x : Nib) : Statement (.skpVx x) :=
  ⟨(by decide : ((0xF0FF, 0xE09E) : Word × Word) ∈ opcodeRows),
    formatXNN_mask_function _ _ _⟩

theorem sknpVx (x : Nib) : Statement (.sknpVx x) :=
  ⟨(by decide : ((0xF0FF, 0xE0A1) : Word × Word) ∈ opcodeRows),
    formatXNN_mask_function _ _ _⟩

theorem ldVxDt (x : Nib) : Statement (.ldVxDt x) :=
  ⟨(by decide : ((0xF0FF, 0xF007) : Word × Word) ∈ opcodeRows),
    formatXNN_mask_function _ _ _⟩

theorem ldVxK (x : Nib) : Statement (.ldVxK x) :=
  ⟨(by decide : ((0xF0FF, 0xF00A) : Word × Word) ∈ opcodeRows),
    formatXNN_mask_function _ _ _⟩

theorem ldDtVx (x : Nib) : Statement (.ldDtVx x) :=
  ⟨(by decide : ((0xF0FF, 0xF015) : Word × Word) ∈ opcodeRows),
    formatXNN_mask_function _ _ _⟩

theorem ldStVx (x : Nib) : Statement (.ldStVx x) :=
  ⟨(by decide : ((0xF0FF, 0xF018) : Word × Word) ∈ opcodeRows),
    formatXNN_mask_function _ _ _⟩

theorem addIVx (x : Nib) : Statement (.addIVx x) :=
  ⟨(by decide : ((0xF0FF, 0xF01E) : Word × Word) ∈ opcodeRows),
    formatXNN_mask_function _ _ _⟩

theorem ldFVx (x : Nib) : Statement (.ldFVx x) :=
  ⟨(by decide : ((0xF0FF, 0xF029) : Word × Word) ∈ opcodeRows),
    formatXNN_mask_function _ _ _⟩

theorem ldBVx (x : Nib) : Statement (.ldBVx x) :=
  ⟨(by decide : ((0xF0FF, 0xF033) : Word × Word) ∈ opcodeRows),
    formatXNN_mask_function _ _ _⟩

theorem ldMemVx (x : Nib) : Statement (.ldMemVx x) :=
  ⟨(by decide : ((0xF0FF, 0xF055) : Word × Word) ∈ opcodeRows),
    formatXNN_mask_function _ _ _⟩

theorem ldVxMem (x : Nib) : Statement (.ldVxMem x) :=
  ⟨(by decide : ((0xF0FF, 0xF065) : Word × Word) ∈ opcodeRows),
    formatXNN_mask_function _ _ _⟩

end Sys2Proof.Laws.Pattern
end

