-- ==== Sys2Proof/Tests/Slice0.lean ====
section
/-! SUPPORT. Tests. Expected values come from spec/95_test_vectors.md (the ids CF, AL, MM, DR, KY, TM, TK
in the docstrings), from the patterns of 30_encoding.md R56, and from the formulas of the rules cited; the
last part shows, for every statement with hypotheses, a state and operands that meet them. -/

namespace Sys2Proof.Tests

open Sys2Proof Sys2Proof.Machine

/-- The reset state changed by `f`, with the word `w` placed at its pc. -/
def placed (w : Nat) (f : State → State) : State := (f State.reset).withFetchWord 16 w

/-- The state after one move, if the move has one. -/
def after (s : State) : Option State :=
  match step s with
  | .next t => some t
  | .fault _ => none
  | .refused _ => none

/-- What `g` reads of the state one Step after `w` was placed in the reset state changed by `f`. -/
def ran {α : Type} (w : Nat) (f : State → State) (g : State → α) : Option α := (after (placed w f)).map g

/-- The reset state under other parameters. -/
def under (f : Config → Config) : State := resetWith (f defaultConfig)

/-- ADDR_OOR = `fault`. -/
def faulting : State := under fun c => { c with addrOor := .fault }

/-- NIBBLE_OPERAND = `fault`. -/
def nibbleFaulting : State := under fun c => { c with nibbleOperand := .fault }

/-- The display after DR3: glyph 0 at (0, 0). -/
def glyphZero : Display := #v[0xF000000000000000#64, 0x9000000000000000#64, 0x9000000000000000#64,
  0x9000000000000000#64, 0xF000000000000000#64] ++ Vector.replicate 27 0#64

/-! ### Well-formedness: the check refuses ill-formed terms

`Instr` has no ill-formed term (each operand type is as wide as its field), so the terms refused are
configurations. -/

theorem test_wf_default : defaultConfig.wf = true := by decide
theorem test_wf_refuses_empty_stack : Config.wf { defaultConfig with stackDepth := 0 } = false := by
  decide
theorem test_wf_refuses_short_font :
    Config.wf { defaultConfig with fontData := [0xF0#8] } = false := by decide
theorem test_wf_refuses_font_in_load_range :
    Config.wf { defaultConfig with fontBase := 0x1B1 } = false := by decide
theorem test_wf_instr : (Instr.drwVxVyN 0xF#4 0xF#4 0xF#4).wf = true := by decide

/-! ### Decoding: words written out from the patterns of 30_encoding.md R56, every row -/

theorem test_decode_display : decode 0b0000000011100000#16 = some .cls ∧
    decode 0b1101000100100101#16 = some (.drwVxVyN 1 2 5) := by decide
theorem test_decode_control : decode 0b0000000011101110#16 = some .ret ∧
    decode 0b0001101010111100#16 = some (.jpNnn 0xABC) ∧
    decode 0b0010101010111100#16 = some (.callNnn 0xABC) ∧
    decode 0b1011001000110100#16 = some (.jpV0Nnn 0x234) := by decide
theorem test_decode_skips : decode 0b0011101001000010#16 = some (.seVxNn 0xA 0x42) ∧
    decode 0b0100101001000010#16 = some (.sneVxNn 0xA 0x42) ∧
    decode 0b0101000100100000#16 = some (.seVxVy 1 2) ∧
    decode 0b1001000100100000#16 = some (.sneVxVy 1 2) := by decide
theorem test_decode_immediate : decode 0b0110111110101011#16 = some (.ldVxNn 0xF 0xAB) ∧
    decode 0b0111000111111111#16 = some (.addVxNn 1 0xFF) ∧
    decode 0b1100001100001111#16 = some (.rndVxNn 3 0x0F) := by decide
theorem test_decode_alu_logic : decode 0b1000000100100000#16 = some (.ldVxVy 1 2) ∧
    decode 0b1000000100100001#16 = some (.orVxVy 1 2) ∧
    decode 0b1000000100100010#16 = some (.andVxVy 1 2) ∧
    decode 0b1000000100100011#16 = some (.xorVxVy 1 2) := by decide
theorem test_decode_alu_arith : decode 0b1000000100100100#16 = some (.addVxVy 1 2) ∧
    decode 0b1000000100100101#16 = some (.subVxVy 1 2) ∧
    decode 0b1000000100100110#16 = some (.shrVxVy 1 2) ∧
    decode 0b1000000100100111#16 = some (.subnVxVy 1 2) ∧
    decode 0b1000000100101110#16 = some (.shlVxVy 1 2) := by decide
theorem test_decode_index : decode 0b1010001100000000#16 = some (.ldINnn 0x300) ∧
    decode 0b1111001000011110#16 = some (.addIVx 2) ∧
    decode 0b1111001000101001#16 = some (.ldFVx 2) ∧
    decode 0b1111001000110011#16 = some (.ldBVx 2) ∧
    decode 0b1111001001010101#16 = some (.ldMemVx 2) ∧
    decode 0b1111001001100101#16 = some (.ldVxMem 2) := by decide
theorem test_decode_keys_timers : decode 0b1110010110011110#16 = some (.skpVx 5) ∧
    decode 0b1110010110100001#16 = some (.sknpVx 5) ∧
    decode 0b1111001100001010#16 = some (.ldVxK 3) ∧
    decode 0b1111000100000111#16 = some (.ldVxDt 1) ∧
    decode 0b1111000100010101#16 = some (.ldDtVx 1) ∧
    decode 0b1111000100011000#16 = some (.ldStVx 1) := by decide
/-- 95_test_vectors.md section 8. -/
theorem test_decode_illegal_low :
    decode 0x0000#16 = none ∧ decode 0x00E1#16 = none ∧ decode 0x00EF#16 = none ∧ decode 0x0123#16 = none ∧
    decode 0x5001#16 = none ∧ decode 0x500F#16 = none ∧ decode 0x8008#16 = none ∧ decode 0x800D#16 = none ∧
    decode 0x800F#16 = none ∧ decode 0x9001#16 = none := by decide
/-- 95_test_vectors.md section 8. -/
theorem test_decode_illegal_high :
    decode 0xE000#16 = none ∧ decode 0xE09F#16 = none ∧ decode 0xE0A0#16 = none ∧ decode 0xE19D#16 = none ∧
    decode 0xF000#16 = none ∧ decode 0xF01F#16 = none ∧ decode 0xF030#16 = none ∧ decode 0xF075#16 = none ∧
    decode 0xF0FF#16 = none ∧ decode 0xFFFF#16 = none := by decide
/-- Big-endian (30_encoding.md R54); fewer than two bytes are no word. -/
theorem test_decode_bytes : decodeBytes [0xA3#8, 0x00#8, 0xFF#8] = .instr (.ldINnn 0x300) [0xFF#8] ∧
    decodeBytes [0xA3#8] = .truncated [0xA3#8] ∧
    decodeBytes [0x81#8, 0x28#8] = .illegal 0x8128#16 [] ∧
    decodeTableWord 16 0xD125 = some (.drwVxVyN 1 2 5) := by decide

/-! ### Control flow -/

/-- CF1, CF3. -/
theorem test_jp : ran 0x1ABC id (·.pc) = some 0x0ABC#16 ∧
    after (placed 0x1200 id) = some (placed 0x1200 id) := by decide
/-- CF4. -/
theorem test_call : ran 0x2400 (fun s => (s.setStack s.stack 3).setPc 0x2FE#16)
    (fun t => (t.pc, t.sp, t.stack[3]?)) = some (0x0400#16, 4, some 0x0300#16) := by decide
/-- CF5. -/
theorem test_call_full : ran 0x2400 (fun s => (s.setStack s.stack 16).setPc 0x2FE#16)
    (fun t => (t.pc, t.sp, t.status)) =
    some (0x0300#16, 16, ⟨false, .stackOverflow, 0x02FE#16, 0x2400#16⟩) := by decide
/-- CF8. -/
theorem test_ret : ran 0x00EE (fun s => s.setStack ((s.stack.set 0 0x0206#16).set 1 0x0ABC#16) 2)
    (fun t => (t.pc, t.sp, t.stack[1]?)) = some (0x0ABC#16, 1, some 0x0ABC#16) := by decide
/-- CF10 (P5). -/
theorem test_ret_empty : ran 0x00EE id (fun t => (t.pc, t.sp, t.status)) =
    some (0x0202#16, 0, ⟨false, .stackUnderflow, 0x0200#16, 0x00EE#16⟩) := by decide
/-- CF11, CF12. -/
theorem test_se_imm : ran 0x3A42 (State.setV 0xA 0x42) (·.pc) = some 0x0204#16 ∧
    ran 0x3A42 (State.setV 0xA 0x43) (·.pc) = some 0x0202#16 := by decide
/-- CF14, CF15. -/
theorem test_sne_imm : ran 0x4A42 (State.setV 0xA 0x42) (·.pc) = some 0x0202#16 ∧
    ran 0x4A42 (State.setV 0xA 0x43) (·.pc) = some 0x0204#16 := by decide
/-- CF16, CF17. -/
theorem test_se_reg : ran 0x5120 (fun s => (s.setV 1 7).setV 2 7) (·.pc) = some 0x0204#16 ∧
    ran 0x5120 (fun s => (s.setV 1 7).setV 2 8) (·.pc) = some 0x0202#16 := by decide
/-- CF20, CF21. -/
theorem test_sne_reg : ran 0x9120 (fun s => (s.setV 1 7).setV 2 8) (·.pc) = some 0x0204#16 ∧
    ran 0x9120 (fun s => (s.setV 1 7).setV 2 7) (·.pc) = some 0x0202#16 := by decide
/-- CF25, CF26: the offset is V[0], not the register nibble 1 names; the sum is not reduced. -/
theorem test_jp_v0 : ran 0xBFFF (State.setV 0 0xFF) (·.pc) = some 0x10FE#16 ∧
    ran 0xB234 (State.setV 2 0x55) (·.pc) = some 0x0234#16 := by decide
/-- CF29: the second fetch byte comes from address 0. -/
theorem test_fetch_wraps : (after ((State.reset.setPc 0xFFF#16).writeByte 0xFFF 0x60)).map
    (fun t => (t.getV 0, t.pc)) = some (0xF0#8, 0x1001#16) := by decide
/-- CF30: FAULT_PC is the 16-bit pc. -/
theorem test_illegal_word : (after (State.reset.setPc 0x1000#16)).map (fun t => (t.pc, t.status)) =
    some (0x1002#16, ⟨false, .decodeError, 0x1000#16, 0xF090#16⟩) := by decide

/-! ### Arithmetic and logic -/

/-- AL1. -/
theorem test_ld_imm : ran 0x6FAB id (fun t => (t.getV 0xF, t.pc)) = some (0xAB#8, 0x202#16) := by decide
/-- AL3. -/
theorem test_add_imm : ran 0x7101 (fun s => (s.setV 1 0xFF).setV 0xF 7)
    (fun t => (t.getV 1, t.getV 0xF)) = some (0x00#8, 0x07#8) := by decide
/-- AL5. -/
theorem test_ld_reg : ran 0x8120 (State.setV 2 0x7E) (·.getV 1) = some 0x7E#8 := by decide
/-- AL6. -/
theorem test_or : ran 0x8121 (fun s => ((s.setV 1 0x0F).setV 2 0xF0).setV 0xF 5)
    (fun t => (t.getV 1, t.getV 0xF)) = some (0xFF#8, 0x05#8) := by decide
/-- AL7. -/
theorem test_and : ran 0x8122 (fun s => (s.setV 1 0x3C).setV 2 0x0F) (·.getV 1) = some 0x0C#8 := by
  decide
/-- AL8. -/
theorem test_xor : ran 0x8123 (fun s => (s.setV 1 0x3C).setV 2 0x0F) (·.getV 1) = some 0x33#8 := by
  decide
/-- AL11, AL12. -/
theorem test_add : ran 0x8124 (fun s => (s.setV 1 0xFF).setV 2 0x01)
      (fun t => (t.getV 1, t.getV 0xF)) = some (0x00#8, 1#8) ∧
    ran 0x8124 (fun s => ((s.setV 1 0x7F).setV 2 0x80).setV 0xF 1)
      (fun t => (t.getV 1, t.getV 0xF)) = some (0xFF#8, 0#8) := by decide
/-- AL14, AL16. -/
theorem test_add_flag_operand : ran 0x8F14 (fun s => (s.setV 0xF 0xF0).setV 1 0x20) (·.getV 0xF) =
      some 1#8 ∧
    ran 0x81F4 (fun s => (s.setV 1 0xFF).setV 0xF 1) (fun t => (t.getV 1, t.getV 0xF)) =
      some (0#8, 1#8) := by decide
/-- AL17, AL18. -/
theorem test_sub : ran 0x8125 (fun s => ((s.setV 1 5).setV 2 7).setV 0xF 1)
      (fun t => (t.getV 1, t.getV 0xF)) = some (0xFE#8, 0#8) ∧
    ran 0x8125 (fun s => (s.setV 1 7).setV 2 7) (fun t => (t.getV 1, t.getV 0xF)) =
      some (0#8, 1#8) := by decide
/-- AL31, AL32. -/
theorem test_subn : ran 0x8017 (fun s => (s.setV 0 2).setV 0xF 1)
      (fun t => (t.getV 0, t.getV 0xF)) = some (0xFE#8, 0#8) ∧
    ran 0x8017 (fun s => (s.setV 0 2).setV 1 9) (fun t => (t.getV 0, t.getV 0xF)) =
      some (7#8, 1#8) := by decide
/-- AL25, AL28, AL29. -/
theorem test_shr : ran 0x8126 (fun s => (s.setV 1 0xAA).setV 2 5)
      (fun t => (t.getV 1, t.getV 2, t.getV 0xF)) = some (2#8, 2#8, 1#8) ∧
    ran 0x81F6 (fun s => (s.setV 1 0x77).setV 0xF 3) (fun t => (t.getV 1, t.getV 0xF)) =
      some (0#8, 0#8) ∧
    ran 0x8F26 (State.setV 2 5) (fun t => (t.getV 2, t.getV 0xF)) = some (2#8, 2#8) := by decide
/-- AL36, AL39, AL41. -/
theorem test_shl : ran 0x812E (fun s => (s.setV 1 0xAA).setV 2 0x81)
      (fun t => (t.getV 1, t.getV 2, t.getV 0xF)) = some (2#8, 2#8, 1#8) ∧
    ran 0x81FE (fun s => (s.setV 1 0x77).setV 0xF 0x80) (fun t => (t.getV 1, t.getV 0xF)) =
      some (2#8, 2#8) ∧
    ran 0x8F2E (State.setV 2 0xC1) (fun t => (t.getV 2, t.getV 0xF)) = some (0x82#8, 0x82#8) := by
  decide
/-- AL43: the random byte is 0xA7. -/
theorem test_rnd : (State.reset.setRandom 3 0x0F 0xA7).getV 3 = 7#8 := by decide
/-- AL44: mask 0, whatever byte is drawn. -/
theorem test_rnd_mask : (State.reset.setRandom 3 0 (Config.randomByte 0)).getV 3 = 0#8 := by
  simp [State.setRandom]

/-! ### The address register and memory -/

/-- MM2. -/
theorem test_ld_i : ran 0xAFFF (State.setI 0x1234) (·.i) = some 0x0FFF#16 := by decide
/-- MM4, MM5. -/
theorem test_add_i : ran 0xF21E (fun s => (s.setI 0x0FFF).setV 2 1) (fun t => (t.i, t.getV 0xF)) =
      some (0x1000#16, 0#8) ∧
    ran 0xF21E (fun s => (s.setI 0xFFFF).setV 2 1) (fun t => (t.i, t.getV 0xF)) =
      some (0x0000#16, 0#8) := by decide
/-- MM9, MM10. -/
theorem test_font : ran 0xF029 (State.setV 0 0x0F) (·.i) = some 0x004B#16 ∧
    ran 0xF029 (State.setV 0 0x1A) (·.i) = some 0x0032#16 := by decide
/-- MM12, MM14. -/
theorem test_bcd : ran 0xF033 (fun s => (s.setV 0 255).setI 0x300)
      (fun t => t.bytesFrom 0x300 3) = some [2#8, 5#8, 5#8] ∧
    ran 0xF033 (fun s => (((s.setV 0 7).setI 0xFFE).writeByte 0xFFE 9).writeByte 0xFFF 9)
      (fun t => [t.readByte 0xFFE, t.readByte 0xFFF, t.readByte 0]) = some [0#8, 0#8, 7#8] := by decide
/-- MM16. -/
theorem test_store : ran 0xF155 (fun s => (((s.setV 0 0x11).setV 1 0x22).setV 2 0x33).setI 0x400)
    (fun t => (t.bytesFrom 0x400 3, t.i)) = some ([0x11#8, 0x22#8, 0#8], 0x400#16) := by decide
/-- MM19, MM21. -/
theorem test_load : ran 0xF265 (fun s => ((State.writeBytes 0x300 [2, 3, 4, 5] s).setI 0x300).setV 3 0x77)
      (fun t => (t.getV 0, t.getV 1, t.getV 2, t.getV 3, t.i)) = some (2#8, 3#8, 4#8, 0x77#8, 0x300#16) ∧
    ran 0xF165 (fun s => (s.setI 0xFFF).writeByte 0xFFF 0x5A) (fun t => (t.getV 0, t.getV 1)) =
      some (0x5A#8, 0xF0#8) := by decide
/-- Writing the reset contents removes the entry. -/
theorem test_memory_canonical : (State.reset.writeByte 0x300 7).mem = [(0x300, 7#8)] ∧
    ((State.reset.writeByte 0x300 7).writeByte 0x1300 0).mem = [] ∧
    (State.reset.writeByte 0 0xF0).mem = [] := by decide
/-- 20_memory.md R33 under ADDR_OOR = `fault`: the halt precedes the writes. -/
theorem test_address_range : (after ((faulting.setI 0xFFE).withFetchWord 16 0xF033)).map
    (fun t => (t.status, t.mem)) = some (⟨false, .addressRange, 0x200#16, 0xF033#16⟩,
      [(0x200, 0xF0#8), (0x201, 0x33#8)]) := by decide

/-! ### The display -/

/-- DR2. -/
theorem test_cls : ran 0x00E0 (State.setDisplay glyphZero) (fun t => (t.display, t.dirty)) =
    some (Vector.replicate 32 0#64, true) := by decide
/-- DR3, DR7. -/
theorem test_draw : ran 0xD005 id (fun t => (t.display, t.getV 0xF, t.dirty)) =
      some (glyphZero, 0#8, true) ∧
    ran 0xD005 (State.setDisplay glyphZero) (fun t => (t.display, t.getV 0xF)) =
      some (Vector.replicate 32 0#64, 1#8) := by decide
/-- DR9, DR10: row 30, row 31, row 0. -/
theorem test_draw_edge : ran 0xD125 (fun s => (s.setV 1 62).setV 2 30)
      (fun t => (t.display[30], t.display[31], t.display[0])) =
      some (0xC000000000000003#64, 0x4000000000000002#64, 0x4000000000000002#64) ∧
    (after ((((under fun c => { c with drawEdge := .clip }).setV 1 62).setV 2 30).withFetchWord 16
      0xD125)).map (fun t => (t.display[30], t.display[31], t.display[0])) =
      some (0x3#64, 0x2#64, 0#64) := by decide

/-! ### Keypad, timers, the Tick and the Host -/

/-- KY1 to KY3, at 0x200. -/
theorem test_skp : ran 0xE59E (fun s => (s.setV 5 7).setKeys 0x0080) (·.pc) = some 0x204#16 ∧
    ran 0xE59E (fun s => (s.setV 5 7).setKeys 0xFF7F) (·.pc) = some 0x202#16 ∧
    ran 0xE59E (fun s => (s.setV 5 0x17).setKeys 0x0080) (·.pc) = some 0x204#16 := by decide
/-- KY4, KY5, at 0x200. -/
theorem test_sknp : ran 0xE5A1 (State.setV 5 7) (·.pc) = some 0x204#16 ∧
    ran 0xE5A1 (fun s => (s.setV 5 7).setKeys 0x0080) (·.pc) = some 0x202#16 := by decide
/-- KY7: the Step changes nothing. -/
theorem test_wait_none : after (placed 0xF30A (State.setV 3 9)) = some (placed 0xF30A (State.setV 3 9)) := by
  decide
/-- KY8, KY9. -/
theorem test_wait_key : ran 0xF30A (State.setKeys 0x0120) (fun t => (t.getV 3, t.pc)) =
      some (5#8, 0x202#16) ∧
    ran 0xF30A (State.setKeys 0x8000) (fun t => (t.getV 3, t.pc)) = some (0x0F#8, 0x202#16) := by decide
/-- TM1. -/
theorem test_read_dt : ran 0xF107 (State.setDt 0x2A) (fun t => (t.getV 1, t.dt)) =
    some (0x2A#8, 0x2A#8) := by decide
/-- TM2. -/
theorem test_set_dt : ran 0xF015 (State.setV 0 5) (fun t => (t.dt, t.st)) = some (5#8, 0#8) := by decide
/-- TM4, TM5. -/
theorem test_set_st : ran 0xF218 (State.setV 2 0x1E) (fun t => (t.st, tone t)) = some (30#8, true) ∧
    ran 0xF218 (State.setSt 4) (fun t => (t.st, tone t)) = some (0#8, false) := by decide
/-- TK1, TK2 (first Tick), TK8. -/
theorem test_tick : tick State.reset = State.reset ∧
    (tick ((State.reset.setDt 1).setSt 2)).dt = 0#8 ∧ (tick ((State.reset.setDt 1).setSt 2)).st = 1#8 ∧
    (tick ((State.reset.setDt 3).setStatus (haltStatus .decodeError 0 0))).dt = 3#8 := by decide
/-- TONE_SAMPLE (60_exceptions.md R152): after or before the decrement. -/
theorem test_tick_tone : tickTone (State.reset.setSt 1) = false ∧
    tickTone ((under fun c => { c with toneSample := .before }).setSt 1) = true := by decide
/-- A scheduled Tick is taken before the Step that runs when nothing is scheduled. -/
theorem test_agenda : (after ((State.reset.setDt 5).setAgenda [.tick])).map
    (fun t => (t.dt, t.pc, t.agenda)) = some (4#8, 0x200#16, []) := by decide
/-- 70_reset_and_hazards.md R170, R172 (P1's first word). -/
theorem test_restart : (after (((State.reset.setPc 0x999).setV 4 4).setAgenda
    [.restart [0x00#8, 0xE0#8], .step])).map
    (fun t => (t.pc, t.getV 4, t.bytesFrom 0x200 3, t.agenda)) =
    some (0x200#16, 0#8, [0x00#8, 0xE0#8, 0x00#8], [.step]) := by decide
/-- 60_exceptions.md R158: the snapshot read clears DIRTY. -/
theorem test_snapshot : (after ((State.reset.setDirty true).setAgenda [.snapshot])).map (·.dirty) =
    some false := by decide

/-! ### Every statement's hypotheses can be met -/

/-- A program-independent running state with one entry on the stack. -/
def oneEntry : State := State.reset.setStack (State.reset.stack.set 0 0x0206#16) 1

/-- The stack is full. -/
def fullStack : State := State.reset.setStack State.reset.stack 16

/-- A halted machine. -/
def halted : State := State.reset.setStatus ⟨false, .decodeError, 0x0200#16, 0#16⟩

/-- The word a fetch reads. -/
def wordAt (s : State) : Word := wordOfBytes (s.readByte s.pc.toNat) (s.readByte (s.pc.toNat + 1))

theorem test_witness_EncodeOfDecode : decode 0xD125#16 = some (.drwVxVyN 1 2 5) := by decide
theorem test_witness_OpcodePatternsDisjoint : (0xF00F#16, 0x8004#16) ∈ opcodeRows ∧
    matchesRow 0x8124#16 (0xF00F#16, 0x8004#16) := by decide
theorem test_witness_StepRunsDecodedInstruction :
    (placed 0x6FAB id).status.run = true ∧ rangeFault (placed 0x6FAB id).cfg 0x200 2 = false ∧
    stepTurn (placed 0x6FAB id).agenda [] ∧ stepTurn [.step, .tick] [.tick] ∧
    decode (wordAt (placed 0x6FAB id)) = some (.ldVxNn 0xF 0xAB) :=
  ⟨by decide, by decide, .inl ⟨rfl, rfl⟩, .inr rfl, by decide⟩
theorem test_witness_IllegalWordHaltsWithDecodeError :
    State.reset.status.run = true ∧ rangeFault State.reset.cfg 0x200 2 = false ∧
    stepTurn State.reset.agenda [] ∧ ∀ row ∈ opcodeRows, ¬ matchesRow (wordAt State.reset) row :=
  ⟨by decide, by decide, .inl ⟨rfl, rfl⟩, by
    rw [show wordAt State.reset = 0x0000#16 by decide]; simp [opcodeRows, matchesRow]⟩
theorem test_witness_HaltedMachineTakesNoStep :
    halted.status.run = false ∧ stepTurn halted.agenda [] := ⟨by decide, .inl ⟨rfl, rfl⟩⟩
theorem test_witness_FetchPastTopHaltsUnderFault : (faulting.setPc 0xFFF).status.run = true ∧
    (faulting.setPc 0xFFF).cfg.addrOor = .fault ∧ (faulting.setPc 0xFFF).pc.toNat % 4096 = 0xFFF ∧
    stepTurn (faulting.setPc 0xFFF).agenda [] := ⟨by decide, by decide, by decide, .inl ⟨rfl, rfl⟩⟩
/-- SP at both ends of its range. -/
theorem test_witness_CallPushesAdvancedPc : State.reset.stack.length = State.reset.cfg.stackDepth ∧
    State.reset.sp < State.reset.cfg.stackDepth ∧
    (fullStack.setStack fullStack.stack 15).sp < (fullStack.setStack fullStack.stack 15).cfg.stackDepth :=
  by decide
theorem test_witness_CallOnFullStackHalts : fullStack.sp = fullStack.cfg.stackDepth := by decide
theorem test_witness_ReturnPopsPc : 0 < oneEntry.sp ∧ oneEntry.stack[oneEntry.sp - 1]? = some 0x0206#16 ∧
    0 < fullStack.sp ∧ fullStack.stack[fullStack.sp - 1]? = some 0#16 := by decide
theorem test_witness_ReturnOnEmptyStackHalts : State.reset.sp = 0 := by decide
theorem test_witness_ReturnUndoesCall : oneEntry.stack.length = oneEntry.cfg.stackDepth ∧
    oneEntry.sp < oneEntry.cfg.stackDepth := by decide
theorem test_witness_SkipOnRegisters : (1#4 : Nib) ≠ 0#4 ∧ (0xF#4 : Nib) ≠ 0#4 := by decide
theorem test_witness_LoadImmediateAndCopy : (placed 0x6FAB id).status.run = true ∧
    rangeFault (placed 0x6FAB id).cfg 0x200 2 = false ∧ stepTurn (placed 0x6FAB id).agenda [] ∧
    wordAt (placed 0x6FAB id) = (0x6#4 ++ 0xF#4 : BitVec 8) ++ 0xAB#8 :=
  ⟨by decide, by decide, .inl ⟨rfl, rfl⟩, by decide +kernel⟩
/-- AddSetsCarry, SubtractSetsNotBorrow, ReverseSubtractSetsNotBorrow, the shifts: both sides of every
premise on a register number. -/
theorem test_witness_register_numbers : (1#4 : Nib) ≠ 0xF#4 ∧ (0xE#4 : Nib) ≠ 0xF#4 ∧
    (0xF#4 : Nib) = 0xF#4 := by decide
/-- Under `mask` any value; under `fault` the greatest hex digit. -/
theorem test_witness_FontGlyphAddress : State.reset.cfg.wf = true ∧ State.reset.cfg.nibbleOperand = .mask ∧
    nibbleFaulting.cfg.wf = true ∧ ((nibbleFaulting.setV 0 15).getV 0).toNat ≤ 15 := by decide
theorem test_witness_NibbleOperandStopsUnderFault : (nibbleFaulting.setV 0 16).cfg.nibbleOperand = .fault ∧
    15 < ((nibbleFaulting.setV 0 16).getV 0).toNat := by decide
theorem test_witness_MemoryWriteThenRead : 0x1FFF % 4096 = 0xFFF % 4096 ∧ 0x1000 % 4096 ≠ 0xFFF % 4096 ∧
    (0xFFF + 1) % 4096 = 0x1000 % 4096 := by decide
/-- The last address at which the access fits under `fault`, and one that wraps under `wrap`. -/
theorem test_witness_DecimalDigitsStored : rangeFault faulting.cfg 0xFFD 3 = false ∧
    rangeFault State.reset.cfg 0xFFE 3 = false ∧
    (∀ k, k < 3 → busAddress 0xFFC ≠ busAddress (0xFFD + k)) := by decide
theorem test_witness_RegistersStored : rangeFault faulting.cfg 0xFF0 (0xF + 1) = false ∧
    rangeFault State.reset.cfg 0xFF8 (0xF + 1) = false ∧ (0xF#4 : Nib).toNat ≤ (0xF#4 : Nib).toNat ∧
    (∀ k, k ≤ 0xF → busAddress 0x008 ≠ busAddress (0xFF8 + k)) := by decide
theorem test_witness_RegistersLoaded : rangeFault faulting.cfg 0xFFF (0 + 1) = false ∧
    (0#4 : Nib).toNat ≤ (0#4 : Nib).toNat ∧ (0#4 : Nib).toNat < (1#4 : Nib).toNat := by decide
/-- The first I past the limit, for each of the four instructions. -/
theorem test_witness_AccessPastTopHaltsUnderFault : faulting.cfg.addrOor = .fault ∧
    (0 < accessBytes (.drwVxVyN 0 0 2) ∧ 0xFFF < 0xFFF % 4096 + (accessBytes (.drwVxVyN 0 0 2) - 1)) ∧
    (0 < accessBytes (.ldBVx 0) ∧ 0xFFF < 0xFFE % 4096 + (accessBytes (.ldBVx 0) - 1)) ∧
    (0 < accessBytes (.ldMemVx 1) ∧ 0xFFF < 0xFFF % 4096 + (accessBytes (.ldMemVx 1) - 1)) ∧
    (0 < accessBytes (.ldVxMem 0xF) ∧ 0xFFF < 0xFF1 % 4096 + (accessBytes (.ldVxMem 0xF) - 1)) := by
  decide
/-- Glyph 0 at (0, 0): pixel (0, 0) is covered. -/
theorem test_covered : spriteCovers State.reset 0 0 5 0 0 :=
  ⟨0, 0, by decide, by decide, by decide, by decide, by decide⟩
/-- Column 4 of the glyph is not covered: its low nibble is 0 in every row. -/
theorem test_uncovered : ¬ spriteCovers State.reset 0 0 5 0 4 := by
  rintro ⟨r, c, hr, hc, hb, hrow, hcol⟩
  have e : State.reset.readByte (State.reset.i.toNat + 0) = 0xF0#8 := by decide
  have hr0 : r = 0 := by
    have : (0 + r) % 32 = 0 := hrow
    have : r < 5 := hr
    omega
  have hc4 : c = 4 := by
    have : (0 + c) % 64 = 4 := hcol
    omega
  subst hr0 hc4
  rw [e] at hb
  exact absurd hb (by decide)
/-- Both cases of VF: a covered pixel that is set, and no covered pixel set. -/
theorem test_witness_DrawFlipsCoveredPixels : rangeFault State.reset.cfg State.reset.i.toNat 5 = false ∧
    (∃ row col, spriteCovers (State.reset.setDisplay glyphZero) 0 0 5 row col ∧
      pixel glyphZero row col = true) ∧
    (∀ row col, spriteCovers State.reset 0 0 5 row col → pixel State.reset.display row col = false) :=
  ⟨by decide, ⟨0, 0, test_covered, by decide⟩, fun row col _ => by
    simp [State.reset, resetWith, pixel]⟩
/-- Both cases of the second VF: on a clear display; and with nothing covered (N = 0), where every
covered pixel is set for want of one. -/
theorem test_witness_DrawTwiceRestoresDisplay : rangeFault State.reset.cfg State.reset.i.toNat 5 = false ∧
    (0#4 : Nib) ≠ 0xF#4 ∧
    (∃ row col, spriteCovers State.reset 0 0 5 row col ∧ pixel State.reset.display row col = false) ∧
    (∀ row col, spriteCovers State.reset 0 0 0 row col → pixel State.reset.display row col = true) :=
  ⟨by decide, by decide, ⟨0, 0, test_covered, by decide⟩, fun _ _ ⟨_, _, h, _⟩ => absurd h (Nat.not_lt_zero _)⟩
theorem test_witness_SkipOnKeyLevel : State.reset.cfg.nibbleOperand = .mask ∧
    ((nibbleFaulting.setV 0 15).getV 0).toNat ≤ 15 := by decide
theorem test_witness_WaitForKeyChangesNothing : (placed 0xF30A id).status.run = true ∧
    rangeFault (placed 0xF30A id).cfg 0x200 2 = false ∧ stepTurn (placed 0xF30A id).agenda [] ∧
    wordAt (placed 0xF30A id) = (0xF#4 ++ 0x3#4 : BitVec 8) ++ 0x0A#8 ∧ (placed 0xF30A id).keys = 0#16 :=
  ⟨by decide, by decide, .inl ⟨rfl, rfl⟩, by decide, by decide⟩
/-- The lowest and the highest key. -/
theorem test_witness_WaitForKeyReportsLowest : State.reset.cfg.keyPriority = .lowest ∧
    (State.reset.setKeys 0xFFFF).keys.getLsbD 0 = true ∧ (State.reset.setKeys 0x8000).keys.getLsbD 15 = true ∧
    (∀ j, j < 15 → (State.reset.setKeys 0x8000).keys.getLsbD j = false) := by decide
theorem test_witness_WaitForKeyReportsPressedKey : (State.reset.setKeys 0x0120).keys ≠ 0#16 := by decide
theorem test_witness_DelayTimerRead : State.reset.status.run = true := by decide
/-- Running and halted. -/
theorem test_witness_TickCountsDownSaturating : (State.reset.setAgenda [.tick]).agenda = .tick :: [] ∧
    (State.reset.setAgenda [.tick]).status.run = true ∧ (halted.setAgenda [.tick]).status.run = false := by
  decide
theorem test_witness_HostMovesChangeOnlyTheirInput :
    (State.reset.setAgenda [.keys 0x8001, .step]).agenda = .keys 0x8001 :: [.step] ∧
    (State.reset.setAgenda [.snapshot]).agenda = .snapshot :: [] := by decide
/-- The longest image that loads, and one byte more (S4). -/
theorem test_witness_RestartLoadsImage :
    (∀ image, (State.reset.setAgenda [.restart image]).agenda = .restart image :: []) ∧
    (∃ image : List Byte, image.length = 2048) ∧ ∃ image : List Byte, image.length = 2049 :=
  ⟨fun _ => rfl, ⟨_, List.length_replicate (a := 1#8)⟩, ⟨_, List.length_replicate (a := 1#8)⟩⟩
theorem test_witness_StepKeepsInvariant : State.reset.Inv ∧ (placed 0xF033 id).Inv ∧
    ∃ t, step (placed 0xF033 id) = .next t := ⟨by decide, by decide, _, rfl⟩
theorem test_witness_ExecChangesOnlyItsParts : ∃ t, exec (.drwVxVyN 0 0 5) State.reset = .next t := ⟨_, rfl⟩
theorem test_witness_ExecChangesOnlyItsRegisters : (∃ t, exec (.shrVxVy 1 2) State.reset = .next t) ∧
    ¬ mayWriteReg 3 (.shrVxVy 1 2) := ⟨⟨_, rfl⟩, by simp [mayWriteReg]⟩
/-- The three causes. -/
theorem test_witness_FaultsArePrecise :
    (fullStack.Inv ∧ ∃ t, exec (.callNnn 0) fullStack = .next t ∧ t.status.run = false) ∧
    (State.reset.Inv ∧ ∃ t, exec .ret State.reset = .next t ∧ t.status.run = false) ∧
    ((faulting.setI 0xFFE).Inv ∧
      ∃ t, exec (.ldBVx 0) (faulting.setI 0xFFE) = .next t ∧ t.status.run = false) :=
  ⟨⟨by decide, _, rfl, rfl⟩, ⟨by decide, _, rfl, rfl⟩, ⟨by decide, _, rfl, rfl⟩⟩
theorem test_witness_ExecAnswersNextState : State.reset.cfg.nibbleOperand = .mask ∧
    nibbleOperandOf (nibbleFaulting.setV 0 15) (.ldFVx 0) = some 15#8 := by decide
theorem test_witness_StepIsSafeWithoutFaultCondition : fullStack.status.run = true ∧
    State.reset.cfg.nibbleOperand = .mask ∧ decode (wordAt (placed 0x2400 id)) = some (.callNnn 0x400) ∧
    (placed 0x2400 id).sp < (placed 0x2400 id).cfg.stackDepth ∧
    rangeFault (placed 0x2400 id).cfg (placed 0x2400 id).i.toNat (accessBytes (.callNnn 0x400)) = false ∧
    stepTurn (placed 0x2400 id).agenda [] := ⟨by decide, by decide, by decide, by decide, by decide,
      .inl ⟨rfl, rfl⟩⟩
theorem test_witness_StepStopsOnlyWhenHaltedOrOverlongImage : State.reset.cfg.nibbleOperand = .mask ∧
    halted.cfg.nibbleOperand = .mask := by decide
theorem test_witness_TickCommutesWithInstruction : touchesTimer (.ldVxNn 1 5) = false ∧
    (State.reset.setDt 3).status.run = true ∧
    ∃ t, exec (.ldVxNn 1 5) (State.reset.setDt 3) = .next t ∧ t.status.run = true :=
  ⟨rfl, rfl, _, rfl, rfl⟩
/-- I differs in bit 12, DIRTY differs; a move that goes on, and one that stops. -/
theorem test_witness_HighBitsAndDirtyUnobservable : State.reset.cfg.addrOor = .wrap ∧
    AgreeBelowBit12 State.reset ((State.reset.setI 0x1000).setDirty true) ∧
    (∃ t, step State.reset = .next t) ∧ AgreeBelowBit12 halted (halted.setI 0x1000) ∧
    ∃ f, step halted = .fault f := by
  refine ⟨rfl, ⟨?_, rfl, rfl, rfl, rfl, fun _ => rfl, rfl, rfl, rfl, rfl⟩, ⟨_, rfl⟩,
    ⟨?_, rfl, rfl, rfl, rfl, fun _ => rfl, rfl, rfl, rfl, rfl⟩, ⟨_, rfl⟩⟩ <;>
  · intro p hp
    cases p <;> first | exact fun _ => rfl | rfl | simp at hp

end Sys2Proof.Tests
end

section
/-! Proofs of the family 20_memory.md: one byte written, then read as data and fetched (R34 to R36). -/

namespace Sys2Proof.Machine

/-- The cell written, named by any address that reduces to it. -/
theorem State.readByte_writeByte_same (s : State) {a a' : Nat} (b : Byte)
    (h : busAddress a' = busAddress a) : (s.writeByte a b).readByte a' = b := by
  rw [State.readByte_writeByte, if_pos h]

/-- Every other cell. -/
theorem State.readByte_writeByte_other (s : State) {a a' : Nat} (b : Byte)
    (h : busAddress a' ≠ busAddress a) : (s.writeByte a b).readByte a' = s.readByte a' := by
  rw [State.readByte_writeByte, if_neg h]

/-- The big-endian read of R36 with its high byte known. -/
theorem State.readWord_of_high {s : State} {a : Nat} {hi : Byte} (h : s.readByte a = hi) :
    s.readWord a = hi ++ s.readByte (a + 1) := by
  rw [State.readWord, wordOfBytes, h]

/-- The big-endian read of R36 with its low byte known. -/
theorem State.readWord_of_low {s : State} {a : Nat} {lo : Byte} (h : s.readByte (a + 1) = lo) :
    s.readWord a = s.readByte a ++ lo := by
  rw [State.readWord, wordOfBytes, h]

/-- The frame of a one-byte store: it is the store of a list of one byte. -/
theorem State.writeByte_frame (a : Nat) (b : Byte) (s : State) :
    SameExcept [.mem] s (s.writeByte a b) :=
  State.writeBytes_frame a [b] s

/-- Settles O32: both halves of the fetch read go through the data read of the written cell. -/
theorem memoryWriteThenRead : Obligations.MemoryWriteThenRead := by
  intro s a b
  exact ⟨fun _ h => s.readByte_writeByte_same b h,
    fun _ h => s.readByte_writeByte_other b h,
    fun _ h => State.readWord_of_high (s.readByte_writeByte_same b h),
    fun _ h => State.readWord_of_low (s.readByte_writeByte_same b h),
    s.writeByte_frame a b⟩

end Sys2Proof.Machine
end

section
/-! Proofs of the family 40_control_flow.md: the jump (R71) and the skips on an immediate (R73, R74). -/

namespace Sys2Proof

/-! ### The words of 1NNN, 3XNN and 4XNN -/

theorem decode_formatNNN_jump (nnn : Addr) : decode (formatNNN 0x1#4 nnn) = some (.jpNnn nnn) := by
  simp [decode]

theorem decode_formatXNN_skipEq (x : Nib) (nn : Byte) :
    decode (formatXNN 0x3#4 x nn) = some (.seVxNn x nn) := by
  simp [decode]

theorem decode_formatXNN_skipNe (x : Nib) (nn : Byte) :
    decode (formatXNN 0x4#4 x nn) = some (.sneVxNn x nn) := by
  simp [decode]

end Sys2Proof

namespace Sys2Proof.Machine

/-! ### Moves of pc -/

/-- An update of pc changes pc alone. -/
theorem State.setPc_frame (w : Word) (s : State) : SameExcept [.pc] s (s.setPc w) := by
  intro p hp
  cases p <;> simp_all [agreeOn]

theorem exec_jpNnn_eq (nnn : Addr) (s : State) :
    exec (.jpNnn nnn) s = .next (s.setPc (zextAddr nnn)) := rfl

/-- A skip in either case is one update of pc. -/
theorem exec_seVxNn_eq (x : Nib) (nn : Byte) (s : State) :
    exec (.seVxNn x nn) s = .next (s.setPc (if s.getV x = nn then s.pc + 2#16 else s.pc)) := by
  change Host.Outcome.next (s.skipIf (s.getV x == nn)) = _
  simp [State.skipIf_eq]

/-- The skip of 4XNN is that of 3XNN with the two outcomes exchanged. -/
theorem exec_sneVxNn_eq (x : Nib) (nn : Byte) (s : State) :
    exec (.sneVxNn x nn) s = .next (s.setPc (if s.getV x = nn then s.pc else s.pc + 2#16)) := by
  change Host.Outcome.next (s.skipIf (s.getV x != nn)) = _
  by_cases h : s.getV x = nn <;> simp [State.skipIf_eq, h]

/-- Settles O10: the jump is one update of pc, to the zero-extended immediate. -/
theorem jumpSetsPcToImmediate : Obligations.JumpSetsPcToImmediate := by
  intro nnn s
  exact ⟨decode_formatNNN_jump nnn, _, exec_jpNnn_eq nnn s, zextAddr_toNat nnn, s.setPc_frame _⟩

/-- Settles O16: each skip, taken or not, is one update of pc. -/
theorem skipOnImmediate : Obligations.SkipOnImmediate := by
  intro x nn s
  exact ⟨decode_formatXNN_skipEq x nn, decode_formatXNN_skipNe x nn,
    ⟨_, exec_seVxNn_eq x nn s, rfl, s.setPc_frame _⟩,
    ⟨_, exec_sneVxNn_eq x nn s, rfl, s.setPc_frame _⟩⟩

end Sys2Proof.Machine
end

section
/-! Proofs of the family 41_alu.md: load immediate, copy, add immediate and the bitwise operations
(R80 to R85), each one write of V[X]. -/

namespace Sys2Proof

/-! ### The words of 6XNN, 7XNN and 8XYN -/

theorem decode_formatXNN_load (x : Nib) (nn : Byte) :
    decode (formatXNN 0x6#4 x nn) = some (.ldVxNn x nn) := by
  simp [decode]

theorem decode_formatXNN_addImmediate (x : Nib) (nn : Byte) :
    decode (formatXNN 0x7#4 x nn) = some (.addVxNn x nn) := by
  simp [decode]

/-- The ALU group is chosen by the last nibble alone. -/
theorem decode_formatXYN_alu (x y f : Nib) :
    decode (formatXYN 0x8#4 x y f) = decodeGroup8 x y f.toNat := by
  simp [decode]

end Sys2Proof

namespace Sys2Proof.Machine

/-! ### Instructions that write one register -/

/-- A register write changes registers alone. -/
theorem State.setV_frame (r : Nib) (b : Byte) (s : State) : SameExcept [.v] s (s.setV r b) := by
  intro p hp
  cases p <;> simp_all [agreeOn]

/-- A register write changes no other register. -/
theorem State.setV_regsFrame (r : Nib) (b : Byte) (s : State) : SameRegsExcept [r] s (s.setV r b) :=
  fun _ hr => s.getV_setV_other (List.ne_of_not_mem_cons hr) b

/-- The result and both frames of an instruction that is one write of V[X]. -/
theorem exec_writesReg {i : Instr} {s : State} {x : Nib} {b : Byte}
    (h : exec i s = .next (s.setV x b)) :
    ∃ t, exec i s = .next t ∧ t.getV x = b ∧ SameRegsExcept [x] s t ∧ SameExcept [.v] s t :=
  ⟨_, h, s.getV_setV_same x b, s.setV_regsFrame x b, s.setV_frame x b⟩

/-- The same, with the byte written described bit by bit. -/
theorem exec_writesBits {i : Instr} {s : State} {x : Nib} {b : Byte} {bits : Nat → Bool}
    (h : exec i s = .next (s.setV x b)) (hbits : ∀ k, b.getLsbD k = bits k) :
    ∃ t, exec i s = .next t ∧ (∀ k, (t.getV x).getLsbD k = bits k) ∧
      SameRegsExcept [x] s t ∧ SameExcept [.v] s t := by
  obtain ⟨t, ht, hx, hregs, hframe⟩ := exec_writesReg h
  exact ⟨t, ht, hx ▸ hbits, hregs, hframe⟩

theorem exec_ldVxNn_eq (x : Nib) (nn : Byte) (s : State) :
    exec (.ldVxNn x nn) s = .next (s.setV x nn) := rfl

theorem exec_addVxNn_eq (x : Nib) (nn : Byte) (s : State) :
    exec (.addVxNn x nn) s = .next (s.setV x (s.getV x + nn)) := rfl

theorem exec_ldVxVy_eq (x y : Nib) (s : State) :
    exec (.ldVxVy x y) s = .next (s.setV x (s.getV y)) := rfl

theorem exec_orVxVy_eq (x y : Nib) (s : State) :
    exec (.orVxVy x y) s = .next (s.setV x (s.getV x ||| s.getV y)) := rfl

theorem exec_andVxVy_eq (x y : Nib) (s : State) :
    exec (.andVxVy x y) s = .next (s.setV x (s.getV x &&& s.getV y)) := rfl

theorem exec_xorVxVy_eq (x y : Nib) (s : State) :
    exec (.xorVxVy x y) s = .next (s.setV x (s.getV x ^^^ s.getV y)) := rfl

/-! ### A whole Step -/

/-- A Step of a running machine whose word at pc decodes to `i` is `i` executed with pc advanced
(30_encoding.md R50 to R53). -/
theorem step_eq_exec {s : State} {rest : List Event} {i : Instr} (hrun : s.status.run = true)
    (hrange : rangeFault s.cfg s.pc.toNat 2 = false) (hturn : stepTurn s.agenda rest)
    (hdecode : decode s.fetchWord = some i) : step s = exec i (s.setAgenda rest).advance := by
  rw [step_of_stepTurn hturn]
  exact instructionCycle_exec hrun hrange hdecode

/-- Settles O19: both instructions are one write of V[X], and the Step adds only the advance of pc. -/
theorem loadImmediateAndCopy : Obligations.LoadImmediateAndCopy := by
  intro x y nn s
  refine ⟨decode_formatXNN_load x nn, decode_formatXYN_alu x y 0x0#4,
    exec_writesReg (exec_ldVxNn_eq x nn s), exec_writesReg (exec_ldVxVy_eq x y s), ?_⟩
  intro rest hrun hrange hturn hword
  have hdecode : decode s.fetchWord = some (.ldVxNn x nn) :=
    (congrArg decode hword).trans (decode_formatXNN_load x nn)
  have hstep := step_eq_exec hrun hrange hturn hdecode
  exact ⟨_, hstep.trans (exec_ldVxNn_eq x nn _), rfl, State.getV_setV_same _ x nn⟩

/-- Settles O20: the byte sum is the sum modulo 256, and V[X] is all that is written. -/
theorem addImmediateWraps : Obligations.AddImmediateWraps := by
  intro x nn s
  obtain ⟨t, ht, hx, hregs, hframe⟩ := exec_writesReg (exec_addVxNn_eq x nn s)
  have hsum : (t.getV x).toNat = ((s.getV x).toNat + nn.toNat) % 256 :=
    hx ▸ BitVec.toNat_add (s.getV x) nn
  exact ⟨decode_formatXNN_addImmediate x nn, t, ht, hsum, hregs, hframe⟩

/-- Settles O21: each of the three writes V[X] once, with the byte operation of that name. -/
theorem bitwiseOperations : Obligations.BitwiseOperations := by
  intro x y s
  exact ⟨decode_formatXYN_alu x y 0x1#4, decode_formatXYN_alu x y 0x2#4,
    decode_formatXYN_alu x y 0x3#4,
    exec_writesBits (exec_orVxVy_eq x y s) fun _ => BitVec.getLsbD_or,
    exec_writesBits (exec_andVxVy_eq x y s) fun _ => BitVec.getLsbD_and,
    exec_writesBits (exec_xorVxVy_eq x y s) fun _ => BitVec.getLsbD_xor⟩

end Sys2Proof.Machine
end

section
/-! Proofs of the family 42_index_memory.md: the load of I with an immediate (R100). -/

namespace Sys2Proof

theorem decode_formatNNN_loadIndex (nnn : Addr) :
    decode (formatNNN 0xA#4 nnn) = some (.ldINnn nnn) := by
  simp [decode]

end Sys2Proof

namespace Sys2Proof.Machine

/-! ### Writes of I -/

/-- An update of I changes I alone. -/
theorem State.setI_frame (w : Word) (s : State) : SameExcept [.i] s (s.setI w) := by
  intro p hp
  cases p <;> simp_all [agreeOn]

theorem exec_ldINnn_eq (nnn : Addr) (s : State) :
    exec (.ldINnn nnn) s = .next (s.setI (zextAddr nnn)) := rfl

/-- Settles O28: ANNN is one update of I, to the zero-extended immediate. -/
theorem loadIndexImmediate : Obligations.LoadIndexImmediate := by
  intro nnn s
  exact ⟨decode_formatNNN_loadIndex nnn, _, exec_ldINnn_eq nnn s, zextAddr_toNat nnn,
    s.setI_frame _⟩

end Sys2Proof.Machine
end

section
/-! Proofs of the family 43_display.md: the clearing of the display (R110). -/

namespace Sys2Proof

theorem decode_clearScreen : decode 0x00E0#16 = some .cls := by decide

end Sys2Proof

namespace Sys2Proof.Machine

/-! ### Writes of the display and of DIRTY -/

/-- An update of the display changes the display alone. -/
theorem State.setDisplay_frame (d : Display) (s : State) :
    SameExcept [.display] s (s.setDisplay d) := by
  intro p hp
  cases p <;> simp_all [agreeOn]

/-- An update of DIRTY changes DIRTY alone. -/
theorem State.setDirty_frame (b : Bool) (s : State) : SameExcept [.dirty] s (s.setDirty b) := by
  intro p hp
  cases p <;> simp_all [agreeOn]

/-- A new display marked dirty: the frames of the two updates in turn. -/
theorem State.setDisplay_setDirty_frame (d : Display) (b : Bool) (s : State) :
    SameExcept [.display, .dirty] s ((s.setDisplay d).setDirty b) :=
  ((s.setDisplay_frame d).mono (by simp)).trans (((s.setDisplay d).setDirty_frame b).mono (by simp))

theorem exec_cls_eq (s : State) :
    exec .cls s = .next ((s.setDisplay (Vector.replicate 32 0#64)).setDirty true) := rfl

/-- Settles O37: 00E0 is one update of the display, to the blank one, and one of DIRTY. -/
theorem clearScreenBlanksDisplay : Obligations.ClearScreenBlanksDisplay := by
  intro s
  exact ⟨decode_clearScreen, _, exec_cls_eq s, pixel_blank, rfl, s.setDisplay_setDirty_frame _ _⟩

end Sys2Proof.Machine
end

section
/-! Proofs of the family 44_keypad_timer.md: the timer instructions (R123 to R125), and the delay timer
after any number of Ticks (R150). -/

namespace Sys2Proof

/-! ### The words of FX07, FX15 and FX18 -/

/-- An instruction of the FX group is chosen by the last byte alone. -/
theorem decode_formatXNN_groupF (x : Nib) (f : Byte) :
    decode (formatXNN 0xF#4 x f) = decodeGroupF x f.toNat := by
  simp [decode]

end Sys2Proof

namespace Sys2Proof.Machine

/-! ### Writes of the timers -/

/-- An update of DT changes DT alone. -/
theorem State.setDt_frame (b : Byte) (s : State) : SameExcept [.dt] s (s.setDt b) := by
  intro p hp
  cases p <;> simp_all [agreeOn]

/-- An update of ST changes ST alone. -/
theorem State.setSt_frame (b : Byte) (s : State) : SameExcept [.st] s (s.setSt b) := by
  intro p hp
  cases p <;> simp_all [agreeOn]

theorem exec_ldVxDt_eq (x : Nib) (s : State) : exec (.ldVxDt x) s = .next (s.setV x s.dt) := rfl

theorem exec_ldDtVx_eq (x : Nib) (s : State) :
    exec (.ldDtVx x) s = .next (s.setDt (s.getV x)) := rfl

theorem exec_ldStVx_eq (x : Nib) (s : State) :
    exec (.ldStVx x) s = .next (s.setSt (s.getV x)) := rfl

theorem tone_eq_true_iff (s : State) : tone s = true ↔ 0 < s.st.toNat := decide_eq_true_iff

/-- Settles O44: each is one update of its timer, and TONE reads the ST just written. -/
theorem timersSetFromRegister : Obligations.TimersSetFromRegister := by
  intro x s
  exact ⟨decode_formatXNN_groupF x 0x15#8, decode_formatXNN_groupF x 0x18#8,
    ⟨_, exec_ldDtVx_eq x s, rfl, s.setDt_frame _⟩,
    ⟨_, exec_ldStVx_eq x s, rfl, tone_eq_true_iff _, s.setSt_frame _⟩⟩

/-! ### Ticks in a row -/

theorem tick_status (s : State) : (tick s).status = s.status := tick_frame s .status (by simp)

theorem tick_dt_toNat {s : State} (hrun : s.status.run = true) :
    (tick s).dt.toNat = s.dt.toNat - 1 := by
  simp [tick, hrun, countDown_toNat]

theorem iterate_tick_status (j : Nat) (s : State) : (tick^[j] s).status = s.status := by
  induction j with
  | zero => rfl
  | succ j ih => rw [Function.iterate_succ_apply', tick_status, ih]

/-- A running machine stays running under Ticks, so each of them lowers DT by one down to 0. -/
theorem iterate_tick_dt_toNat {s : State} (hrun : s.status.run = true) (j : Nat) :
    (tick^[j] s).dt.toNat = s.dt.toNat - j := by
  induction j with
  | zero => rfl
  | succ j ih =>
    have hrun_j : (tick^[j] s).status.run = true := by rw [iterate_tick_status, hrun]
    rw [Function.iterate_succ_apply', tick_dt_toNat hrun_j, ih, Nat.sub_sub]

/-- Settles O45: FX07 is one write of V[X] with DT, which `j` Ticks have lowered by `j` down to 0. -/
theorem delayTimerRead : Obligations.DelayTimerRead := by
  intro x s
  refine ⟨decode_formatXNN_groupF x 0x07#8, exec_writesReg (exec_ldVxDt_eq x s), fun hrun j => ?_⟩
  obtain ⟨t, ht, hx, -, hframe⟩ := exec_writesReg (exec_ldVxDt_eq x (tick^[j] s))
  have hread : (t.getV x).toNat = s.dt.toNat - j := by rw [hx, iterate_tick_dt_toNat hrun]
  exact ⟨t, ht, hread, hframe .dt (by simp)⟩

end Sys2Proof.Machine
end

section
/-! Proofs of the family 30_encoding.md: the decoder against the encoder (R54, R62) and against the
(mask, match) pairs (R52, R56, R58). -/

namespace Sys2Proof

/-! ### Decode of encode -/

/-- The key skips are chosen by the last byte alone. -/
theorem decode_formatXNN_groupE (x : Nib) (f : Byte) :
    decode (formatXNN 0xE#4 x f) = decodeGroupE x f.toNat := by
  simp [decode]

/-- The decoder recovers every instruction: one equation per format and group. -/
theorem decode_encode (i : Instr) : decode (encode i) = some i := by
  cases i with
  | cls | ret => decide
  | jpNnn nnn => exact decode_formatNNN_jump nnn
  | ldINnn nnn => exact decode_formatNNN_loadIndex nnn
  | callNnn nnn | jpV0Nnn nnn => simp [encode, decode]
  | seVxNn x nn => exact decode_formatXNN_skipEq x nn
  | sneVxNn x nn => exact decode_formatXNN_skipNe x nn
  | ldVxNn x nn => exact decode_formatXNN_load x nn
  | addVxNn x nn => exact decode_formatXNN_addImmediate x nn
  | rndVxNn x nn => simp [encode, decode]
  | seVxVy x y | sneVxVy x y => simp [encode, decode]
  | ldVxVy x y | orVxVy x y | andVxVy x y | xorVxVy x y | addVxVy x y | subVxVy x y | shrVxVy x y
  | subnVxVy x y | shlVxVy x y => exact decode_formatXYN_alu x y _
  | drwVxVyN x y n => simp [encode, decode]
  | skpVx x | sknpVx x => exact decode_formatXNN_groupE x _
  | ldVxDt x | ldVxK x | ldDtVx x | ldStVx x | addIVx x | ldFVx x | ldBVx x | ldMemVx x
  | ldVxMem x => exact decode_formatXNN_groupF x _

/-- Settles O2: on bytes, the word of the two bytes stored is the word encoded. -/
theorem decodeOfEncode : Obligations.DecodeOfEncode := by
  intro i rest
  exact ⟨decode_encode i, by simp [encodeBytes, decodeBytes, decode_encode i]⟩

/-! ### Encode of decode -/

theorem encode_of_decodeGroup0 {w : Word} {i : Instr} (h : decodeGroup0 w = some i) :
    encode i = w := by
  unfold decodeGroup0 at h
  split at h
  · next hw => cases h; exact hw.symm
  · split at h
    · next hw => cases h; exact hw.symm
    · cases h

/-- A field with a known value. -/
theorem eq_ofNat_of_toNat_eq {m k : Nat} {b : BitVec m} (h : b.toNat = k) :
    b = BitVec.ofNat m k := by
  rw [← h, BitVec.ofNat_toNat, BitVec.setWidth_eq]

theorem encode_of_decodeGroup8 {x y n : Nib} {i : Instr} (h : decodeGroup8 x y n.toNat = some i) :
    encode i = formatXYN 0x8#4 x y n := by
  unfold decodeGroup8 at h
  split at h <;> cases h <;> (next hn => rw [eq_ofNat_of_toNat_eq hn]; rfl)

theorem encode_of_decodeGroupE {x : Nib} {f : Byte} {i : Instr}
    (h : decodeGroupE x f.toNat = some i) : encode i = formatXNN 0xE#4 x f := by
  unfold decodeGroupE at h
  split at h <;> cases h <;> (next hf => rw [eq_ofNat_of_toNat_eq hf]; rfl)

theorem encode_of_decodeGroupF {x : Nib} {f : Byte} {i : Instr}
    (h : decodeGroupF x f.toNat = some i) : encode i = formatXNN 0xF#4 x f := by
  unfold decodeGroupF at h
  split at h <;> cases h <;> (next hf => rw [eq_ofNat_of_toNat_eq hf]; rfl)

/-- The top nibble with what follows it, in each format, is the word. -/
theorem formatNNN_of_nibble0 {w : Word} {k : Nat} (h : (nibble0 w).toNat = k) :
    formatNNN (BitVec.ofNat 4 k) (low12 w) = w := by
  rw [← eq_ofNat_of_toNat_eq h, formatNNN_fields]

theorem formatXNN_of_nibble0 {w : Word} {k : Nat} (h : (nibble0 w).toNat = k) :
    formatXNN (BitVec.ofNat 4 k) (nibble1 w) (lowByte w) = w := by
  rw [← eq_ofNat_of_toNat_eq h, formatXNN_fields]

theorem formatXYN_of_nibble0 {w : Word} {k : Nat} (h : (nibble0 w).toNat = k) :
    formatXYN (BitVec.ofNat 4 k) (nibble1 w) (nibble2 w) (nibble3 w) = w := by
  rw [← eq_ofNat_of_toNat_eq h, formatXYN_fields]

/-- A legal word is the word of its instruction: the decoder's dispatch, read backwards. -/
theorem encode_of_decode {w : Word} {i : Instr} (h : decode w = some i) : encode i = w := by
  unfold decode at h
  split at h
  case h_1 => exact encode_of_decodeGroup0 h
  case h_9 h0 => exact (encode_of_decodeGroup8 h).trans (formatXYN_of_nibble0 h0)
  case h_15 h0 => exact (encode_of_decodeGroupE h).trans (formatXNN_of_nibble0 h0)
  case h_16 h0 => exact (encode_of_decodeGroupF h).trans (formatXNN_of_nibble0 h0)
  case h_17 => cases h
  case h_2 h0 | h_3 h0 | h_11 h0 | h_12 h0 => cases h; exact formatNNN_of_nibble0 h0
  case h_4 h0 | h_5 h0 | h_7 h0 | h_8 h0 | h_13 h0 => cases h; exact formatXNN_of_nibble0 h0
  case h_14 h0 => cases h; exact formatXYN_of_nibble0 h0
  case h_6 h0 | h_10 h0 =>
    split at h
    · next h3 =>
      cases h
      have hw := formatXYN_of_nibble0 h0
      rwa [h3] at hw
    · cases h

/-- Every instruction's word has the pattern of its row, which the map lists (R56). -/
theorem encode_matchesRow (i : Instr) : Laws.Pattern.Statement i := by
  cases i with
  | cls => exact Laws.Pattern.cls
  | ret => exact Laws.Pattern.ret
  | jpNnn nnn => exact Laws.Pattern.jpNnn nnn
  | callNnn nnn => exact Laws.Pattern.callNnn nnn
  | seVxNn x nn => exact Laws.Pattern.seVxNn x nn
  | sneVxNn x nn => exact Laws.Pattern.sneVxNn x nn
  | seVxVy x y => exact Laws.Pattern.seVxVy x y
  | ldVxNn x nn => exact Laws.Pattern.ldVxNn x nn
  | addVxNn x nn => exact Laws.Pattern.addVxNn x nn
  | ldVxVy x y => exact Laws.Pattern.ldVxVy x y
  | orVxVy x y => exact Laws.Pattern.orVxVy x y
  | andVxVy x y => exact Laws.Pattern.andVxVy x y
  | xorVxVy x y => exact Laws.Pattern.xorVxVy x y
  | addVxVy x y => exact Laws.Pattern.addVxVy x y
  | subVxVy x y => exact Laws.Pattern.subVxVy x y
  | shrVxVy x y => exact Laws.Pattern.shrVxVy x y
  | subnVxVy x y => exact Laws.Pattern.subnVxVy x y
  | shlVxVy x y => exact Laws.Pattern.shlVxVy x y
  | sneVxVy x y => exact Laws.Pattern.sneVxVy x y
  | ldINnn nnn => exact Laws.Pattern.ldINnn nnn
  | jpV0Nnn nnn => exact Laws.Pattern.jpV0Nnn nnn
  | rndVxNn x nn => exact Laws.Pattern.rndVxNn x nn
  | drwVxVyN x y n => exact Laws.Pattern.drwVxVyN x y n
  | skpVx x => exact Laws.Pattern.skpVx x
  | sknpVx x => exact Laws.Pattern.sknpVx x
  | ldVxDt x => exact Laws.Pattern.ldVxDt x
  | ldVxK x => exact Laws.Pattern.ldVxK x
  | ldDtVx x => exact Laws.Pattern.ldDtVx x
  | ldStVx x => exact Laws.Pattern.ldStVx x
  | addIVx x => exact Laws.Pattern.addIVx x
  | ldFVx x => exact Laws.Pattern.ldFVx x
  | ldBVx x => exact Laws.Pattern.ldBVx x
  | ldMemVx x => exact Laws.Pattern.ldMemVx x
  | ldVxMem x => exact Laws.Pattern.ldVxMem x

/-- Settles O3: the word is that of its instruction, which has the pattern of its row. -/
theorem encodeOfDecode : Obligations.EncodeOfDecode := by
  intro w i h
  have hword := encode_of_decode h
  exact ⟨hword, hword ▸ (encode_matchesRow i).2⟩

/-! ### The patterns of R56 -/

/-- Where two patterns meet in one word, each match agrees with the other under both masks. -/
theorem masks_agree {w : Word} {row row' : Word × Word} (h : matchesRow w row)
    (h' : matchesRow w row') : row.2 &&& row'.1 = row'.2 &&& row.1 := by
  rw [← h, ← h', BitVec.and_assoc, BitVec.and_assoc, BitVec.and_comm row.1]

/-- No two rows of the map agree under both masks. -/
theorem opcodeRows_pairwise :
    opcodeRows.Pairwise fun row row' => row.2 &&& row'.1 ≠ row'.2 &&& row.1 := by
  decide +kernel

/-- Settles O5: the words drop out, and the map's pairs of rows are compared. -/
theorem opcodePatternsDisjoint : Obligations.OpcodePatternsDisjoint := by
  intro w row row' hrow hrow' h h'
  have hsymm : Std.Symm fun row row' : Word × Word => row.2 &&& row'.1 ≠ row'.2 &&& row.1 :=
    ⟨fun _ _ hdiffer => hdiffer.symm⟩
  by_contra hne
  exact opcodeRows_pairwise.forall hrow hrow' hne (masks_agree h h')

/-! ### The words refused -/

theorem nibble0_and (w m : Word) : nibble0 (w &&& m) = nibble0 w &&& nibble0 m :=
  BitVec.extractLsb'_and

theorem nibble3_and (w m : Word) : nibble3 (w &&& m) = nibble3 w &&& nibble3 m :=
  BitVec.extractLsb'_and

theorem lowByte_and (w m : Word) : lowByte (w &&& m) = lowByte w &&& lowByte m :=
  BitVec.extractLsb'_and

/-- A mask that keeps the top nibble. -/
theorem nibble0_of_masked {w m v : Word} (h : w &&& m = v) (hmask : nibble0 m = 0xF#4) :
    nibble0 w = nibble0 v := by
  rw [← h, nibble0_and, hmask, and_all_nibble]

/-- A mask that keeps the last nibble. -/
theorem nibble3_of_masked {w m v : Word} (h : w &&& m = v) (hmask : nibble3 m = 0xF#4) :
    nibble3 w = nibble3 v := by
  rw [← h, nibble3_and, hmask, and_all_nibble]

/-- A mask that keeps the last byte. -/
theorem lowByte_of_masked {w m v : Word} (h : w &&& m = v) (hmask : lowByte m = 0xFF#8) :
    lowByte w = lowByte v := by
  rw [← h, lowByte_and, hmask, and_all_byte]

/-- A word that matches the row of an instruction decodes: its group's fixed fields are the row's. -/
theorem decode_ne_none_of_matchesRow {w : Word} (i : Instr) (h : matchesRow w (rowOf i)) :
    decode w ≠ none := by
  cases i with
  | cls | ret =>
    have hw : w = _ := (BitVec.and_allOnes (x := w)).symm.trans h
    subst hw
    decide
  | jpNnn | callNnn | seVxNn | sneVxNn | ldVxNn | addVxNn | ldINnn | jpV0Nnn | rndVxNn | drwVxVyN =>
    have h0 := nibble0_of_masked (m := 0xF000#16) h (by decide)
    simp [decode, h0, rowOf, nibble0_toNat]
  | seVxVy | sneVxVy =>
    have h0 := nibble0_of_masked (m := 0xF00F#16) h (by decide)
    have h3 : nibble3 w = 0#4 :=
      (nibble3_of_masked (m := 0xF00F#16) h (by decide)).trans (by simp only [rowOf]; decide)
    simp [decode, h0, h3, rowOf, nibble0_toNat]
  | ldVxVy | orVxVy | andVxVy | xorVxVy | addVxVy | subVxVy | shrVxVy | subnVxVy
  | shlVxVy =>
    have h0 := nibble0_of_masked (m := 0xF00F#16) h (by decide)
    have h3 := nibble3_of_masked (m := 0xF00F#16) h (by decide)
    simp [decode, h0, h3, rowOf, nibble0_toNat, nibble3_toNat, decodeGroup8]
  | skpVx | sknpVx | ldVxDt | ldVxK | ldDtVx | ldStVx | addIVx | ldFVx | ldBVx | ldMemVx | ldVxMem =>
    have h0 := nibble0_of_masked (m := 0xF0FF#16) h (by decide)
    have hlow := lowByte_of_masked (m := 0xF0FF#16) h (by decide)
    simp [decode, h0, hlow, rowOf, nibble0_toNat, lowByte_toNat, decodeGroupE, decodeGroupF]

/-- Every row of the map is the row of the instruction its own match decodes to. -/
theorem opcodeRows_rowOf :
    opcodeRows.map (fun row => (decode row.2).map rowOf) = opcodeRows.map some := by
  decide +kernel

/-- Settles O4: a row of the map is the row of an instruction, and a word that matches it decodes. -/
theorem decodeRefusesExactlyUnmatchedWords : Obligations.DecodeRefusesExactlyUnmatchedWords := by
  intro w
  constructor
  · intro hnone row hrow h
    obtain ⟨i, -, hi⟩ := Option.map_eq_some_iff.1 (List.map_inj_left.1 opcodeRows_rowOf row hrow)
    exact decode_ne_none_of_matchesRow i (hi ▸ h) hnone
  · intro hunmatched
    by_contra hsome
    obtain ⟨i, hi⟩ := Option.ne_none_iff_exists'.1 hsome
    exact hunmatched (rowOf i) (encode_matchesRow i).1 (encodeOfDecode w i hi).2

/-- Settles O1: the decoder is run on each word. -/
theorem specWordsDecode : Obligations.SpecWordsDecode := by
  unfold Obligations.SpecWordsDecode
  decide

end Sys2Proof
end

section
/-! What an instruction can answer, said once for all 34 (30_encoding.md R52; 60_exceptions.md R140 to
R143): it stops on a nibble operand, or raises one cause, or has its effect. -/

namespace Sys2Proof.Machine

/-! ### The three answers -/

/-- The instruction stops: its hex digit or key number exceeds 15 under NIBBLE_OPERAND = `fault`. -/
def nibbleStop (i : Instr) (s : State) : Bool := (nibbleOperandOf s i).any (nibbleFault s.cfg)

/-- The cause the instruction raises before it writes anything, if any (60_exceptions.md R140). -/
def raisedCause (s : State) : Instr → Option Cause
  | .callNnn _ => if s.cfg.stackDepth ≤ s.sp then some .stackOverflow else none
  | .ret => if s.sp = 0 then some .stackUnderflow else none
  | i => if rangeFault s.cfg s.i.toNat (accessBytes i) then some .addressRange else none

/-- What the instruction makes of the state when it neither stops nor raises a cause. -/
def effect (s : State) : Instr → State
  | .cls => (s.setDisplay (Vector.replicate 32 0#64)).setDirty true
  | .ret => s.pop.setPc s.topEntry
  | .jpNnn nnn => s.setPc (zextAddr nnn)
  | .callNnn nnn => (s.push s.pc).setPc (zextAddr nnn)
  | .seVxNn x nn => s.setPc (if s.getV x = nn then s.pc + 2#16 else s.pc)
  | .sneVxNn x nn => s.setPc (if s.getV x = nn then s.pc else s.pc + 2#16)
  | .seVxVy x y => s.setPc (if s.getV x = s.getV y then s.pc + 2#16 else s.pc)
  | .sneVxVy x y => s.setPc (if s.getV x = s.getV y then s.pc else s.pc + 2#16)
  | .ldVxNn x nn => s.setV x nn
  | .addVxNn x nn => s.setV x (s.getV x + nn)
  | .ldVxVy x y => s.setV x (s.getV y)
  | .orVxVy x y => s.setV x (s.getV x ||| s.getV y)
  | .andVxVy x y => s.setV x (s.getV x &&& s.getV y)
  | .xorVxVy x y => s.setV x (s.getV x ^^^ s.getV y)
  | .addVxVy x y =>
    s.setResultThenFlag x (s.getV x + s.getV y) (carryFlag (s.getV x) (s.getV y))
  | .subVxVy x y =>
    s.setResultThenFlag x (s.getV x - s.getV y) (notBorrowFlag (s.getV x) (s.getV y))
  | .subnVxVy x y =>
    s.setResultThenFlag x (s.getV y - s.getV x) (notBorrowFlag (s.getV y) (s.getV x))
  | .shrVxVy x y => ((s.setFlag (lowBitFlag (s.getV y))).mapV y fun b => b >>> 1).copyV x y
  | .shlVxVy x y => ((s.setFlag (highBitFlag (s.getV y))).mapV y fun b => b <<< 1).copyV x y
  | .ldINnn nnn => s.setI (zextAddr nnn)
  | .jpV0Nnn nnn => s.setPc (zextAddr nnn + zextByte (s.getV 0#4))
  | .rndVxNn x nn => s.countDraw.setRandom x nn (Config.randomByte s.draws)
  | .drwVxVyN x y n =>
    ((s.setDisplay (spriteCanvas x y n s).1).setFlag
      (collisionFlag (spriteCanvas x y n s).2)).setDirty true
  | .skpVx x => s.setPc (if s.keyDown (lowNibble (s.getV x)) then s.pc + 2#16 else s.pc)
  | .sknpVx x => s.setPc (if s.keyDown (lowNibble (s.getV x)) then s.pc else s.pc + 2#16)
  | .ldVxDt x => s.setV x s.dt
  | .ldVxK x =>
    match s.reportedKey with
    | none => s.setPc s.fetchAddr
    | some k => s.afterKeyChoice.setV x (BitVec.ofNat 8 k)
  | .ldDtVx x => s.setDt (s.getV x)
  | .ldStVx x => s.setSt (s.getV x)
  | .addIVx x => s.setI (s.i + zextByte (s.getV x))
  | .ldFVx x => s.setI (glyphAddress s.cfg (lowNibble (s.getV x)))
  | .ldBVx x => State.writeBytes s.i.toNat (decimalDigits (s.getV x)) s
  | .ldMemVx x => State.writeBytes s.i.toNat (s.regBytes x) s
  | .ldVxMem x => State.setRegsFrom 0 (s.bytesFrom s.i.toNat (x.toNat + 1)) s

/-- What `exec i s` is, by the three answers. -/
def answer (i : Instr) (s : State) : Result :=
  if nibbleStop i s then .fault .nibbleOperand
  else
    match raisedCause s i with
    | some c => raiseBy c i s
    | none => .next (effect s i)

/-- An access of no byte never leaves memory. -/
theorem rangeFault_zero (c : Config) (a : Nat) : rangeFault c a 0 = false := by
  have hfits : ¬ memSize < busAddress a + 0 := Nat.not_lt.2 (busAddress_lt a).le
  rw [rangeFault, decide_eq_false hfits, Bool.and_false]

/-- An instruction that reads no nibble operand, calls nothing, returns nothing and accesses no memory
has its effect. -/
theorem eq_answer_of_plain {i : Instr} {s : State} (hnibble : nibbleOperandOf s i = none)
    (hraised : raisedCause s i = if rangeFault s.cfg s.i.toNat 0 then some .addressRange else none)
    (h : exec i s = .next (effect s i)) : exec i s = answer i s := by
  rw [rangeFault_zero] at hraised
  simp [answer, nibbleStop, hnibble, hraised, h]

/-- An instruction guarded by the condition of one cause. -/
theorem eq_answer_of_guard {i : Instr} {s : State} {p : Prop} [Decidable p] {c : Cause}
    (hnibble : nibbleOperandOf s i = none) (hraised : raisedCause s i = if p then some c else none)
    (h : exec i s = if p then raiseBy c i s else .next (effect s i)) : exec i s = answer i s := by
  by_cases hp : p <;> simp [answer, nibbleStop, hnibble, hraised, h, hp]

/-- An instruction guarded by the check of its nibble operand. -/
theorem eq_answer_of_nibble {i : Instr} {s : State} {b : Byte}
    (hnibble : nibbleOperandOf s i = some b)
    (hraised : raisedCause s i = if rangeFault s.cfg s.i.toNat 0 then some .addressRange else none)
    (h : exec i s = if nibbleFault s.cfg b then .fault .nibbleOperand else .next (effect s i)) :
    exec i s = answer i s := by
  rw [rangeFault_zero] at hraised
  cases hb : nibbleFault s.cfg b <;> simp [answer, nibbleStop, hnibble, hraised, h, hb]

theorem exec_seVxVy_eq (x y : Nib) (s : State) :
    exec (.seVxVy x y) s = .next (effect s (.seVxVy x y)) := by
  change Host.Outcome.next (s.skipIf (s.getV x == s.getV y)) = _
  simp [State.skipIf_eq, effect]

theorem exec_sneVxVy_eq (x y : Nib) (s : State) :
    exec (.sneVxVy x y) s = .next (effect s (.sneVxVy x y)) := by
  change Host.Outcome.next (s.skipIf (s.getV x != s.getV y)) = _
  by_cases h : s.getV x = s.getV y <;> simp [State.skipIf_eq, effect, h]

theorem exec_ldVxK_eq (x : Nib) (s : State) : exec (.ldVxK x) s = .next (effect s (.ldVxK x)) := by
  simp only [exec, execLdVxK, effect]
  cases s.reportedKey <;> rfl

theorem exec_skpVx_eq (x : Nib) (s : State) :
    exec (.skpVx x) s = if nibbleFault s.cfg (s.getV x) then .fault .nibbleOperand
      else .next (effect s (.skpVx x)) := by
  change skipOnKey x true s = _
  simp [skipOnKey, State.skipIf_eq, effect]

theorem exec_sknpVx_eq (x : Nib) (s : State) :
    exec (.sknpVx x) s = if nibbleFault s.cfg (s.getV x) then .fault .nibbleOperand
      else .next (effect s (.sknpVx x)) := by
  change skipOnKey x false s = _
  cases h : s.keyDown (lowNibble (s.getV x)) <;> simp [skipOnKey, State.skipIf_eq, effect, h]

theorem exec_ldMemVx_eq (x : Nib) (s : State) :
    exec (.ldMemVx x) s = if rangeFault s.cfg s.i.toNat (x.toNat + 1)
      then raiseBy .addressRange (.ldMemVx x) s else .next (effect s (.ldMemVx x)) := by
  change storeAtI _ (s.regBytes x) s = _
  rw [storeAtI, State.regBytes_length]
  rfl

/-- Each arm of the dispatch is one of the three answers. -/
theorem exec_eq_answer (i : Instr) (s : State) : exec i s = answer i s := by
  cases i with
  | cls | jpNnn | ldVxNn | addVxNn | ldVxVy | orVxVy | andVxVy | xorVxVy | addVxVy | subVxVy
  | shrVxVy | subnVxVy | shlVxVy | ldINnn | jpV0Nnn | rndVxNn | ldVxDt | ldDtVx | ldStVx | addIVx =>
    exact eq_answer_of_plain rfl rfl rfl
  | seVxNn x nn => exact eq_answer_of_plain rfl rfl (exec_seVxNn_eq x nn s)
  | sneVxNn x nn => exact eq_answer_of_plain rfl rfl (exec_sneVxNn_eq x nn s)
  | seVxVy x y => exact eq_answer_of_plain rfl rfl (exec_seVxVy_eq x y s)
  | sneVxVy x y => exact eq_answer_of_plain rfl rfl (exec_sneVxVy_eq x y s)
  | ldVxK x => exact eq_answer_of_plain rfl rfl (exec_ldVxK_eq x s)
  | ret | callNnn | drwVxVyN | ldBVx | ldVxMem => exact eq_answer_of_guard rfl rfl rfl
  | ldMemVx x => exact eq_answer_of_guard rfl rfl (exec_ldMemVx_eq x s)
  | ldFVx => exact eq_answer_of_nibble rfl rfl rfl
  | skpVx x => exact eq_answer_of_nibble rfl rfl (exec_skpVx_eq x s)
  | sknpVx x => exact eq_answer_of_nibble rfl rfl (exec_sknpVx_eq x s)

theorem exec_stops {i : Instr} {s : State} (h : nibbleStop i s = true) :
    exec i s = .fault .nibbleOperand := by
  simp [exec_eq_answer, answer, h]

theorem exec_raises {i : Instr} {s : State} {c : Cause} (hstop : nibbleStop i s = false)
    (hraised : raisedCause s i = some c) :
    exec i s = .next (s.setStatus (haltStatus c (s.pc - 2#16) (encode i))) := by
  simp [exec_eq_answer, answer, hstop, hraised, raiseBy_eq]

theorem exec_effect {i : Instr} {s : State} (hstop : nibbleStop i s = false)
    (hraised : raisedCause s i = none) : exec i s = .next (effect s i) := by
  simp [exec_eq_answer, answer, hstop, hraised]

/-- Everything an instruction can do. -/
theorem exec_cases (i : Instr) (s : State) :
    (nibbleStop i s = true ∧ exec i s = .fault .nibbleOperand) ∨
    (∃ c, nibbleStop i s = false ∧ raisedCause s i = some c ∧
      exec i s = .next (s.setStatus (haltStatus c (s.pc - 2#16) (encode i)))) ∨
    (nibbleStop i s = false ∧ raisedCause s i = none ∧ exec i s = .next (effect s i)) := by
  cases hstop : nibbleStop i s with
  | true => exact .inl ⟨rfl, exec_stops hstop⟩
  | false =>
    cases hraised : raisedCause s i with
    | some c => exact .inr (.inl ⟨c, rfl, rfl, exec_raises hstop hraised⟩)
    | none => exact .inr (.inr ⟨rfl, rfl, exec_effect hstop hraised⟩)

/-- Everything an instruction that answers a next state can have done. -/
theorem exec_next_cases {i : Instr} {s t : State} (h : exec i s = .next t) :
    (∃ c, raisedCause s i = some c ∧ t = s.setStatus (haltStatus c (s.pc - 2#16) (encode i))) ∨
    (raisedCause s i = none ∧ t = effect s i) := by
  rcases exec_cases i s with ⟨-, he⟩ | ⟨c, -, hraised, he⟩ | ⟨-, hraised, he⟩ <;> rw [he] at h <;>
    cases h
  · exact .inl ⟨c, hraised, rfl⟩
  · exact .inr ⟨hraised, rfl⟩

/-! ### When an instruction stops, when it raises -/

/-- Under `mask`, or on a hex digit, no instruction stops. -/
theorem nibbleStop_eq_false {i : Instr} {s : State}
    (h : s.cfg.nibbleOperand = .mask ∨ ∀ b, nibbleOperandOf s i = some b → b.toNat ≤ 15) :
    nibbleStop i s = false := by
  cases hb : nibbleOperandOf s i with
  | none => simp [nibbleStop, hb]
  | some b =>
    have hfault : nibbleFault s.cfg b = false := nibbleFault_false (h.imp_right fun hle => hle b hb)
    simp [nibbleStop, hb, hfault]

/-- An access past 0xFFF under ADDR_OOR = `fault`, as a number (20_memory.md R33). -/
theorem rangeFault_eq_true_iff (c : Config) (a n : Nat) :
    rangeFault c a n = true ↔ c.addrOor = .fault ∧ 0 < n ∧ 0xFFF < a % 4096 + (n - 1) := by
  have hlt : a % 4096 < 4096 := Nat.mod_lt a (by decide)
  have hfits : 4096 < a % 4096 + n ↔ 0 < n ∧ 0xFFF < a % 4096 + (n - 1) := by omega
  simp only [rangeFault, busAddress, memSize, Bool.and_eq_true, decide_eq_true_eq, hfits]

/-- The condition of each cause (60_exceptions.md R140). -/
theorem raisedCause_eq_some {i : Instr} {s : State} {c : Cause} (h : raisedCause s i = some c) :
    (c = .stackOverflow ∧ (∃ nnn, i = .callNnn nnn) ∧ s.cfg.stackDepth ≤ s.sp) ∨
    (c = .stackUnderflow ∧ i = .ret ∧ s.sp = 0) ∨
    (c = .addressRange ∧ rangeFault s.cfg s.i.toNat (accessBytes i) = true) := by
  unfold raisedCause at h
  split at h <;> split at h <;> cases h <;> simp_all

/-- Where none of the conditions holds, nothing is raised. -/
theorem raisedCause_eq_none {i : Instr} {s : State}
    (hcall : (∃ nnn, i = .callNnn nnn) → s.sp < s.cfg.stackDepth) (hret : i = .ret → 0 < s.sp)
    (hrange : rangeFault s.cfg s.i.toNat (accessBytes i) = false) : raisedCause s i = none := by
  cases hraised : raisedCause s i with
  | none => rfl
  | some c =>
    rcases raisedCause_eq_some hraised with ⟨-, hi, hsp⟩ | ⟨-, hi, hsp⟩ | ⟨-, hfault⟩
    · exact absurd (hcall hi) (Nat.not_lt.2 hsp)
    · exact absurd (hret hi) (by omega)
    · rw [hrange] at hfault; cases hfault

/-- An access past the top is raised, for no instruction that accesses memory calls or returns. -/
theorem raisedCause_of_rangeFault {i : Instr} {s : State}
    (h : rangeFault s.cfg s.i.toNat (accessBytes i) = true) :
    raisedCause s i = some .addressRange := by
  cases i with
  | ret | callNnn => cases (rangeFault_zero _ _).symm.trans h
  | _ => exact if_pos h

/-- FX0A's effect: to wait, or to report a key. -/
theorem effect_ldVxK_cases (x : Nib) (s : State) :
    (s.reportedKey = none ∧ effect s (.ldVxK x) = s.setPc s.fetchAddr) ∨
    (∃ k, s.reportedKey = some k ∧
      effect s (.ldVxK x) = s.afterKeyChoice.setV x (BitVec.ofNat 8 k)) := by
  cases h : s.reportedKey <;> simp [effect, h]

end Sys2Proof.Machine
end

section
/-! What an instruction leaves unchanged (10_state.md R10 to R20), and when one faults or stops
(60_exceptions.md R140 to R143). -/

namespace Sys2Proof.Machine

/-! ### Frames of pairs of updates -/

/-- An update of the stack changes the stack alone. -/
theorem State.setStack_frame (entries : List Word) (sp : Nat) (s : State) :
    SameExcept [.stack] s (s.setStack entries sp) := by
  intro p hp
  cases p <;> simp_all [agreeOn]

/-- One more free value changes the count of draws alone. -/
theorem State.countDraw_frame (s : State) : SameExcept [.draws] s s.countDraw := by
  intro p hp
  cases p <;> simp_all [agreeOn]

/-- A fault changes STATUS alone. -/
theorem State.setStatus_frame (t : Status) (s : State) : SameExcept [.status] s (s.setStatus t) := by
  intro p hp
  cases p <;> simp_all [agreeOn]

/-- An update of the schedule changes the schedule alone. -/
theorem State.setAgenda_frame (events : List Event) (s : State) :
    SameExcept [.agenda] s (s.setAgenda events) := by
  intro p hp
  cases p <;> simp_all [agreeOn]

/-- Two changes in a row. -/
theorem SameExcept.comp {a b : List Part} {s t u : State} (h : SameExcept a s t)
    (h' : SameExcept b t u) : SameExcept (a ++ b) s u :=
  (h.mono fun _ hp => List.mem_append_left b hp).trans
    (h'.mono fun _ hp => List.mem_append_right a hp)

theorem SameRegsExcept.mono {a b : List Nib} {s t : State} (h : SameRegsExcept a s t)
    (hab : ∀ r ∈ a, r ∈ b) : SameRegsExcept b s t :=
  fun r hr => h r fun h' => hr (hab r h')

theorem SameRegsExcept.comp {a b : List Nib} {s t u : State} (h : SameRegsExcept a s t)
    (h' : SameRegsExcept b t u) : SameRegsExcept (a ++ b) s u := by
  intro r hr
  rw [List.mem_append, not_or] at hr
  exact (h' r hr.2).trans (h r hr.1)

/-! ### What an effect leaves unchanged -/

theorem effect_ldVxK_frame (x : Nib) (s : State) :
    SameExcept [.v, .pc, .draws] s (effect s (.ldVxK x)) := by
  rcases effect_ldVxK_cases x s with ⟨-, h⟩ | ⟨k, -, h⟩ <;> rw [h]
  · exact (s.setPc_frame _).mono (by simp)
  · rcases s.afterKeyChoice_cases with h | h <;> rw [h]
    · exact (s.setV_frame x _).mono (by simp)
    · exact (s.countDraw_frame.comp (State.setV_frame x _ _)).mono (by simp)

/-- The parts an instruction's effect may change: its write set but for the STATUS of a fault. -/
def effectParts (i : Instr) : List Part := (mayWrite i).filter (· ≠ .status)

/-- No instruction's effect changes a part outside its write set, nor STATUS. -/
theorem effect_frame (i : Instr) (s : State) : SameExcept (effectParts i) s (effect s i) := by
  cases i with
  | cls => exact s.setDisplay_setDirty_frame _ _
  | ret | callNnn =>
    exact ((s.setStack_frame _ _).comp (State.setPc_frame _ _)).mono
      (by simp [effectParts, mayWrite])
  | jpNnn | jpV0Nnn | seVxNn | sneVxNn | seVxVy | sneVxVy | skpVx | sknpVx => exact s.setPc_frame _
  | ldVxNn | addVxNn | ldVxVy | orVxVy | andVxVy | xorVxVy | ldVxDt => exact s.setV_frame _ _
  | addVxVy | subVxVy | subnVxVy => exact (s.setV_frame _ _).trans (State.setV_frame _ _ _)
  | shrVxVy | shlVxVy =>
    exact ((s.setV_frame _ _).trans (State.setV_frame _ _ _)).trans (State.setV_frame _ _ _)
  | rndVxNn =>
    exact (s.countDraw_frame.comp (State.setV_frame _ _ _)).mono (by simp [effectParts, mayWrite])
  | ldVxK x => exact effect_ldVxK_frame x s
  | ldINnn | addIVx | ldFVx => exact s.setI_frame _
  | drwVxVyN =>
    exact (((s.setDisplay_frame _).comp (State.setV_frame _ _ _)).comp
      (State.setDirty_frame _ _)).mono (by simp [effectParts, mayWrite])
  | ldDtVx => exact s.setDt_frame _
  | ldStVx => exact s.setSt_frame _
  | ldBVx | ldMemVx => exact State.writeBytes_frame _ _ s
  | ldVxMem => exact State.setRegsFrom_frame _ _ s

theorem effect_status (i : Instr) (s : State) : (effect s i).status = s.status :=
  effect_frame i s .status (by simp [effectParts])

theorem effect_cfg (i : Instr) (s : State) : (effect s i).cfg = s.cfg :=
  effect_frame i s .cfg (by cases i <;> simp [effectParts, mayWrite])

/-- FX65's effect on each register. -/
theorem effect_ldVxMem_getV (x r : Nib) (s : State) :
    (effect s (.ldVxMem x)).getV r =
      if r.toNat ≤ x.toNat then s.readByte (s.i.toNat + r.toNat) else s.getV r := by
  have hx := x.isLt
  have hfits : 0 + (s.bytesFrom s.i.toNat (x.toNat + 1)).length ≤ 16 := by
    rw [State.bytesFrom_length]
    omega
  change (State.setRegsFrom 0 _ s).getV r = _
  rw [State.setRegsFrom_getV 0 _ s hfits r]
  by_cases hr : r.toNat ≤ x.toNat
  · rw [dif_pos (by simp; omega), if_pos hr, State.bytesFrom_getElem, Nat.sub_zero]
  · rw [dif_neg (by simp; omega), if_neg hr]

/-- No instruction's effect changes a register outside its write set. -/
theorem effect_regsFrame (i : Instr) (s : State) {r : Nib} (h : ¬ mayWriteReg r i) :
    (effect s i).getV r = s.getV r := by
  cases i with
  | cls | ret | jpNnn | callNnn | seVxNn | sneVxNn | seVxVy | sneVxVy | jpV0Nnn | skpVx | sknpVx
  | ldINnn | addIVx | ldFVx | ldDtVx | ldStVx | ldBVx | ldMemVx =>
    exact effect_frame _ s .v (by simp [effectParts, mayWrite]) r
  | ldVxNn | addVxNn | ldVxVy | orVxVy | andVxVy | xorVxVy | ldVxDt | rndVxNn =>
    exact State.getV_setV_other _ h _
  | addVxVy | subVxVy | subnVxVy =>
    obtain ⟨hx, hf⟩ := not_or.1 h
    exact (State.getV_setV_other _ hf _).trans (State.getV_setV_other _ hx _)
  | shrVxVy | shlVxVy =>
    obtain ⟨hx, hyf⟩ := not_or.1 h
    obtain ⟨hy, hf⟩ := not_or.1 hyf
    exact ((State.getV_setV_other _ hx _).trans (State.getV_setV_other _ hy _)).trans
      (State.getV_setV_other _ hf _)
  | ldVxK x =>
    rcases effect_ldVxK_cases x s with ⟨-, he⟩ | ⟨k, -, he⟩ <;> rw [he]
    · rfl
    · rcases s.afterKeyChoice_cases with hk | hk <;> rw [hk] <;> exact State.getV_setV_other _ h _
  | drwVxVyN => exact State.getV_setV_other _ h _
  | ldVxMem x =>
    exact (effect_ldVxMem_getV x r s).trans (if_neg h)

/-- The registers outside any list that holds the write set. -/
theorem effect_sameRegsExcept {i : Instr} {changed : List Nib} (s : State)
    (h : ∀ r, mayWriteReg r i → r ∈ changed) : SameRegsExcept changed s (effect s i) :=
  fun _ hr => effect_regsFrame i s fun hw => hr (h _ hw)

/-- Only an instruction that can change STATUS raises a cause. -/
theorem status_mem_mayWrite {i : Instr} {s : State} {c : Cause} (h : raisedCause s i = some c) :
    Part.status ∈ mayWrite i := by
  rcases raisedCause_eq_some h with ⟨-, ⟨nnn, rfl⟩, -⟩ | ⟨-, rfl, -⟩ | ⟨-, hrange⟩
  · simp [mayWrite]
  · simp [mayWrite]
  · obtain ⟨-, hpos, -⟩ := (rangeFault_eq_true_iff _ _ _).1 hrange
    cases i with
    | drwVxVyN | ldBVx | ldMemVx | ldVxMem => simp [mayWrite]
    | _ => exact absurd hpos (Nat.lt_irrefl 0)

/-- Settles O52: a fault changes STATUS, an effect the rest of the write set. -/
theorem execChangesOnlyItsParts : Obligations.ExecChangesOnlyItsParts := by
  intro i s t h
  rcases exec_next_cases h with ⟨c, hraised, rfl⟩ | ⟨-, rfl⟩
  · exact (s.setStatus_frame _).mono (by simpa using status_mem_mayWrite hraised)
  · exact (effect_frame i s).mono fun _ hp => List.mem_of_mem_filter hp

/-- Settles O53: a fault changes no register, an effect those of its write set. -/
theorem execChangesOnlyItsRegisters : Obligations.ExecChangesOnlyItsRegisters := by
  intro i s t h r hr
  rcases exec_next_cases h with ⟨c, -, rfl⟩ | ⟨-, rfl⟩
  · rfl
  · exact effect_regsFrame i s hr

/-! ### Faults and stops -/

/-- Settles O54: an effect leaves STATUS alone, so what halts is a cause raised. -/
theorem faultsArePrecise : Obligations.FaultsArePrecise := by
  rintro i s t ⟨-, -, hsp, -, -⟩ hrun h hhalted
  rcases exec_next_cases h with ⟨c, hraised, rfl⟩ | ⟨-, rfl⟩
  · refine ⟨rfl, (raisedCause_eq_some hraised).imp ?_ (Or.imp_right ?_)⟩
    · rintro ⟨hc, hcall, hfull⟩
      exact ⟨hc, hcall, Nat.le_antisymm hsp hfull⟩
    · rintro ⟨hc, hrange⟩
      exact ⟨hc, (rangeFault_eq_true_iff _ _ _).1 hrange⟩
  · rw [effect_status, hrun] at hhalted
    cases hhalted

/-- Settles O55: only a nibble operand stops an instruction. -/
theorem execAnswersNextState : Obligations.ExecAnswersNextState := by
  intro i s hnibble
  rcases exec_cases i s with ⟨hstop, -⟩ | ⟨c, -, -, h⟩ | ⟨-, -, h⟩
  · rw [nibbleStop_eq_false hnibble] at hstop
    cases hstop
  · exact ⟨_, h⟩
  · exact ⟨_, h⟩

/-- Settles O36: the access is the condition of AddressRange, and a fault changes STATUS alone. -/
theorem accessPastTopHaltsUnderFault : Obligations.AccessPastTopHaltsUnderFault := by
  intro i s hfault hpos hpast
  have hrange := (rangeFault_eq_true_iff s.cfg s.i.toNat (accessBytes i)).2 ⟨hfault, hpos, hpast⟩
  have hstop : nibbleStop i s = false := by
    cases i with
    | skpVx | sknpVx | ldFVx => exact absurd hpos (Nat.lt_irrefl 0)
    | _ => rfl
  exact ⟨_, exec_raises hstop (raisedCause_of_rangeFault hrange), rfl, s.setStatus_frame _⟩

/-! ### The instruction cycle (30_encoding.md R50 to R53) -/

/-- Settles O6: the Step of a legal word, cited. -/
theorem stepRunsDecodedInstruction : Obligations.StepRunsDecodedInstruction :=
  fun _ _ _ hrun hrange hturn hdecode => step_eq_exec hrun hrange hturn hdecode

/-- The frame of a Step that faults before an instruction runs: pc advanced, STATUS written, the Step
off the schedule. -/
theorem State.haltedStep_frame (s : State) (rest : List Event) (w : Word) (t : Status) :
    SameExcept [.pc, .status, .agenda] s (((s.setAgenda rest).setPc w).setStatus t) :=
  (((s.setAgenda_frame rest).comp (State.setPc_frame w _)).comp (State.setStatus_frame t _)).mono
    (by simp)

/-- Settles O7: a word that matches no row is refused (O4), and the refusal raises DecodeError. -/
theorem illegalWordHaltsWithDecodeError : Obligations.IllegalWordHaltsWithDecodeError := by
  intro s rest hrun hrange hturn hunmatched
  have hdecode : decode (s.setAgenda rest).fetchWord = none :=
    (decodeRefusesExactlyUnmatchedWords _).2 hunmatched
  have hstep := (step_of_stepTurn hturn).trans (instructionCycle_illegal hrun hrange hdecode)
  exact ⟨_, hstep, rfl, rfl, rfl, s.haltedStep_frame rest _ _⟩

/-- Settles O8: the Step's turn is a cycle of a halted machine. -/
theorem haltedMachineTakesNoStep : Obligations.HaltedMachineTakesNoStep :=
  fun _ _ hhalted hturn => (step_of_stepTurn hturn).trans (instructionCycle_halted hhalted)

/-- Settles O9: the fetch is an access of two bytes at pc. -/
theorem fetchPastTopHaltsUnderFault : Obligations.FetchPastTopHaltsUnderFault := by
  intro s rest hrun hfault htop hturn
  have hrange : rangeFault s.cfg s.pc.toNat 2 = true :=
    (rangeFault_eq_true_iff _ _ _).2 ⟨hfault, by omega, by omega⟩
  have hstep := (step_of_stepTurn hturn).trans
    (instructionCycle_fetchRange (s := s.setAgenda rest) hrun hrange)
  refine ⟨_, hstep, rfl, rfl, rfl, rfl, rfl, ?_⟩
  exact (((s.setAgenda_frame rest).comp (State.setPc_frame _ _)).comp
    ((State.countDraw_frame _).comp (State.setStatus_frame _ _))).mono (by simp)

/-- Settles O56: the Step runs an instruction that neither stops nor raises, and so leaves STATUS. -/
theorem stepIsSafeWithoutFaultCondition : Obligations.StepIsSafeWithoutFaultCondition := by
  intro s i rest hrun hmask hturn hfetch hdecode hcall hret haccess
  have hraised : raisedCause (s.setAgenda rest).advance i = none :=
    raisedCause_eq_none hcall hret haccess
  have hstop : nibbleStop i (s.setAgenda rest).advance = false := nibbleStop_eq_false (.inl hmask)
  have hstep := (step_eq_exec hrun hfetch hturn hdecode).trans (exec_effect hstop hraised)
  exact ⟨_, hstep, by rw [effect_status]; exact hrun⟩

/-- A Step of a running machine answers a next state under NIBBLE_OPERAND = `mask`. -/
theorem instructionCycle_next {s : State} (hmask : s.cfg.nibbleOperand = .mask)
    (hrun : s.status.run = true) : ∃ t, instructionCycle s = .next t := by
  rcases instructionCycle_cases s with ⟨hhalted, -⟩ | ⟨-, -, h⟩ | ⟨-, -, -, h⟩ | ⟨-, -, i, -, h⟩
  · rw [hrun] at hhalted
    cases hhalted
  · exact ⟨_, h⟩
  · exact ⟨_, h⟩
  · rw [h]
    exact execAnswersNextState i s.advance (.inl hmask)

/-- Settles O57: of the moves, only a Step of a halted machine and an overlong image stop. -/
theorem stepStopsOnlyWhenHaltedOrOverlongImage :
    Obligations.StepStopsOnlyWhenHaltedOrOverlongImage := by
  intro s hmask
  rcases step_cases s with ⟨rest, hturn, h⟩ | ⟨rest, -, h⟩ | ⟨levels, rest, -, h⟩ | ⟨rest, -, h⟩ |
    ⟨image, rest, hagenda, h⟩
  · cases hrun : s.status.run with
    | true => exact .inl (h ▸ instructionCycle_next hmask hrun)
    | false => exact .inr (.inl ⟨rfl, ⟨rest, hturn⟩, haltedMachineTakesNoStep s rest hrun hturn⟩)
  · exact .inl ⟨_, h⟩
  · exact .inl ⟨_, h⟩
  · exact .inl ⟨_, h⟩
  · by_cases hlong : 2048 < image.length
    · exact .inr (.inr ⟨⟨image, rest, hagenda, hlong⟩, h.trans (if_pos hlong)⟩)
    · exact .inl ⟨_, h.trans (if_neg hlong)⟩

end Sys2Proof.Machine
end

section
/-! The invariant (10_state.md R14, R18, R20; 60_exceptions.md R143) at reset and along every move. -/

namespace Sys2Proof.Machine

/-! ### One instruction -/

/-- Raising a cause keeps the invariant. -/
theorem State.Inv.raise {s : State} (h : s.Inv) {c : Cause} (hc : c ≠ .none)
    (hrange : c = .addressRange → s.cfg.addrOor = .fault) (a w : Word) :
    (s.setStatus (haltStatus c a w)).Inv := by
  obtain ⟨hmem, hlen, hsp, -, -⟩ := h
  exact ⟨hmem, hlen, hsp, by simp [haltStatus, hc], hrange⟩

theorem State.Inv.setStack {s : State} (h : s.Inv) {entries : List Word} {sp : Nat}
    (hlen : entries.length = s.stack.length) (hsp : sp ≤ s.cfg.stackDepth) :
    (s.setStack entries sp).Inv := by
  obtain ⟨hmem, hdepth, -, hstatus⟩ := h
  exact ⟨hmem, hlen.trans hdepth, hsp, hstatus⟩

theorem State.Inv.writeBytes {s : State} (h : s.Inv) (a : Nat) (bs : List Byte) :
    (State.writeBytes a bs s).Inv := by
  have hwf := State.writeBytes_wf a bs s h.1
  obtain ⟨m, hm⟩ := State.writeBytes_fields a bs s
  rw [hm] at hwf ⊢
  exact ⟨hwf, h.2⟩

theorem State.Inv.setRegsFrom {s : State} (h : s.Inv) (k : Nat) (bs : List Byte) :
    (State.setRegsFrom k bs s).Inv := by
  obtain ⟨v, hv⟩ := State.setRegsFrom_fields k bs s
  rw [hv]
  exact h

/-- An effect keeps the invariant: only a return, a call and a store touch what it speaks of. -/
theorem State.Inv.effect {s : State} (h : s.Inv) {i : Instr} (hraised : raisedCause s i = none) :
    (effect s i).Inv := by
  cases i with
  | ret => exact h.setStack rfl ((Nat.sub_le _ _).trans h.2.2.1)
  | callNnn nnn =>
    have hroom : s.sp < s.cfg.stackDepth := by
      by_contra hfull
      rw [raisedCause, if_pos (Nat.not_lt.1 hfull)] at hraised
      cases hraised
    exact h.setStack (List.length_set) hroom
  | ldBVx | ldMemVx => exact h.writeBytes _ _
  | ldVxMem => exact h.setRegsFrom _ _
  | ldVxK x =>
    rcases effect_ldVxK_cases x s with ⟨-, he⟩ | ⟨k, -, he⟩ <;> rw [he]
    · exact h
    · rcases s.afterKeyChoice_cases with hk | hk <;> rw [hk] <;> exact h
  | _ => exact h

theorem exec_keeps_Inv {i : Instr} {s t : State} (h : s.Inv) (he : exec i s = .next t) : t.Inv := by
  rcases exec_next_cases he with ⟨c, hraised, rfl⟩ | ⟨hraised, rfl⟩
  · rcases raisedCause_eq_some hraised with ⟨rfl, -, -⟩ | ⟨rfl, -, -⟩ | ⟨rfl, hrange⟩
    · exact h.raise (by decide) (by simp) _ _
    · exact h.raise (by decide) (by simp) _ _
    · exact h.raise (by decide) (fun _ => rangeFault_config hrange) _ _
  · exact h.effect hraised

/-! ### One move -/

theorem instructionCycle_keeps_Inv {s t : State} (h : s.Inv) (hc : instructionCycle s = .next t) :
    t.Inv := by
  rcases instructionCycle_cases s with ⟨-, he⟩ | ⟨-, hrange, he⟩ | ⟨-, -, -, he⟩ | ⟨-, -, i, -, he⟩ <;>
    rw [he] at hc
  · cases hc
  · cases hc
    have hinv : s.advance.countDraw.Inv := h
    exact hinv.raise (by decide) (fun _ => rangeFault_config hrange) _ _
  · cases hc
    have hinv : s.advance.Inv := h
    exact hinv.raise (by decide) (by simp) _ _
  · exact exec_keeps_Inv (s := s.advance) h hc

theorem tick_keeps_Inv {s : State} (h : s.Inv) : (tick s).Inv := by
  unfold tick
  split
  · exact h
  · exact h

/-- Settles O50: memory is empty, the stack has its depth, and the machine runs. -/
theorem resetMeetsInvariant : Obligations.ResetMeetsInvariant := by
  intro c
  exact ⟨Memory.reset_wf c, List.length_replicate, Nat.zero_le _, iff_of_true rfl rfl, nofun⟩

/-- The state RESET leaves: as after reset, but for what is not the machine's state (log 12). -/
def State.afterReset (s : State) : State :=
  { resetWith s.cfg with keys := s.keys, draws := s.draws, agenda := s.agenda }

theorem restart_of_long {image : List Byte} (h : progMax < image.length) (s : State) :
    restart image s = .fault .loadError := if_pos h

theorem restart_of_fits {image : List Byte} (h : image.length ≤ progMax) (s : State) :
    restart image s = .next (loadImage image s.afterReset) := if_neg (Nat.not_lt.2 h)

theorem restart_keeps_Inv {image : List Byte} {s t : State} (h : restart image s = .next t) :
    t.Inv := by
  have hreset : s.afterReset.Inv := resetMeetsInvariant s.cfg
  by_cases hlong : progMax < image.length
  · rw [restart_of_long hlong] at h
    cases h
  · rw [restart_of_fits (Nat.not_lt.1 hlong)] at h
    cases h
    exact hreset.writeBytes loadBase image

/-- Settles O51: move by move, the schedule being no part of the invariant. -/
theorem stepKeepsInvariant : Obligations.StepKeepsInvariant := by
  intro s t hinv hstep
  rcases step_cases s with ⟨rest, -, h⟩ | ⟨rest, -, h⟩ | ⟨levels, rest, -, h⟩ | ⟨rest, -, h⟩ |
    ⟨image, rest, -, h⟩ <;> rw [h] at hstep
  · exact instructionCycle_keeps_Inv (s := s.setAgenda rest) hinv hstep
  · cases hstep
    exact tick_keeps_Inv (s := s.setAgenda rest) hinv
  · cases hstep
    exact hinv
  · cases hstep
    exact hinv
  · exact restart_keeps_Inv hstep

end Sys2Proof.Machine
end

section
/-! Ticks and instructions commute (60_exceptions.md R150, R151). -/

namespace Sys2Proof.Machine

/-- The timers set to given values: a Tick of a running machine, with the values it counts to. -/
def State.setTimers (dt st : Byte) (s : State) : State := (s.setDt dt).setSt st

theorem tick_running {s : State} (h : s.status.run = true) :
    tick s = s.setTimers (countDown s.dt) (countDown s.st) := if_pos h

theorem State.writeBytes_setTimers (a : Nat) (bs : List Byte) (dt st : Byte) (s : State) :
    State.writeBytes a bs (s.setTimers dt st) = (State.writeBytes a bs s).setTimers dt st := by
  induction bs generalizing a s with
  | nil => rfl
  | cons b bs ih => exact ih (a + 1) (s.writeByte a b)

theorem State.setRegsFrom_setTimers (k : Nat) (bs : List Byte) (dt st : Byte) (s : State) :
    State.setRegsFrom k bs (s.setTimers dt st) = (State.setRegsFrom k bs s).setTimers dt st := by
  induction bs generalizing k s with
  | nil => rfl
  | cons b bs ih => exact ih (k + 1) (s.setV (regOfNat k) b)

theorem State.afterKeyChoice_setTimers (dt st : Byte) (s : State) :
    (s.setTimers dt st).afterKeyChoice = s.afterKeyChoice.setTimers dt st := by
  cases h : s.cfg.keyPriority with
  | lowest => simp [State.afterKeyChoice, State.setTimers, h]
  | any =>
    simp only [State.afterKeyChoice, State.setTimers, State.setDt_cfg, State.setSt_cfg, h]
    rfl

/-- An effect that touches no timer is the same whatever the timers hold. -/
theorem effect_setTimers {i : Instr} (h : touchesTimer i = false) (dt st : Byte) (s : State) :
    effect (s.setTimers dt st) i = (effect s i).setTimers dt st := by
  cases i with
  | ldVxDt | ldDtVx | ldStVx => cases h
  | ldBVx | ldMemVx => exact State.writeBytes_setTimers _ _ dt st s
  | ldVxMem => exact State.setRegsFrom_setTimers _ _ dt st s
  | ldVxK x =>
    have hsame : (s.setTimers dt st).reportedKey = s.reportedKey := rfl
    rcases effect_ldVxK_cases x s with ⟨hk, he⟩ | ⟨k, hk, he⟩ <;> rw [he]
    · simp only [effect, hsame, hk]
      rfl
    · simp only [effect, hsame, hk, State.afterKeyChoice_setTimers]
      rfl
  | _ => rfl

/-- An instruction that does not halt the machine has its effect and no other answer. -/
theorem effect_of_running {i : Instr} {s t : State} (h : exec i s = .next t)
    (hrun : t.status.run = true) :
    nibbleStop i s = false ∧ raisedCause s i = none ∧ t = effect s i := by
  rcases exec_cases i s with ⟨-, he⟩ | ⟨c, -, -, he⟩ | ⟨hstop, hraised, he⟩ <;> rw [he] at h <;>
    cases h
  · cases hrun
  · exact ⟨hstop, hraised, rfl⟩

/-- Settles O58: the instruction has its effect either way, and the effect passes by the timers. -/
theorem tickCommutesWithInstruction : Obligations.TickCommutesWithInstruction := by
  intro i s t htimer hrun h hrun'
  obtain ⟨hstop, hraised, rfl⟩ := effect_of_running h hrun'
  have hparts : Part.dt ∉ effectParts i ∧ Part.st ∉ effectParts i := by
    cases i with
    | ldVxDt | ldDtVx | ldStVx => cases htimer
    | _ => simp [effectParts, mayWrite]
  have hdt : (effect s i).dt = s.dt := effect_frame i s .dt hparts.1
  have hst : (effect s i).st = s.st := effect_frame i s .st hparts.2
  rw [tick_running hrun, tick_running hrun', hdt, hst, ← effect_setTimers htimer]
  exact exec_effect hstop hraised

end Sys2Proof.Machine
end

section
/-! Bits 15 to 12 of I, pc and the stack entries, and DIRTY, are unobservable (10_state.md R12, R13, R21;
decisions D4, D13, D20): a simulation between states that differ only there. -/

namespace Sys2Proof.Machine

/-! ### Addresses modulo 4096 -/

theorem sameLow12.refl (w : Word) : sameLow12 w w := rfl

theorem sameLow12.add {a b a' b' : Word} (h : sameLow12 a a') (h' : sameLow12 b b') :
    sameLow12 (a + b) (a' + b') := by
  unfold sameLow12 at *
  simp only [BitVec.toNat_add]
  omega

theorem sameLow12.sub {a a' : Word} (h : sameLow12 a a') (b : Word) :
    sameLow12 (a - b) (a' - b) := by
  unfold sameLow12 at *
  simp only [BitVec.toNat_sub]
  omega

theorem sameLow12.busAddress_add {a a' : Word} (h : sameLow12 a a') (k : Nat) :
    busAddress (a.toNat + k) = busAddress (a'.toNat + k) := by
  unfold sameLow12 at h
  unfold busAddress memSize
  omega

/-- A read depends on the reduced address alone (20_memory.md R33). -/
theorem State.readByte_of_busAddress (s : State) {a a' : Nat} (h : busAddress a = busAddress a') :
    s.readByte a = s.readByte a' := by
  simp only [State.readByte, Memory.read, h]

/-- An update of the KEY levels changes them alone. -/
theorem State.setKeys_frame (levels : Word) (s : State) :
    SameExcept [.keys] s (s.setKeys levels) := by
  intro p hp
  cases p <;> simp_all [agreeOn]

section

variable {s s' : State}

/-! ### What the two states agree on -/

theorem AgreeBelowBit12.cfg (h : AgreeBelowBit12 s s') : s'.cfg = s.cfg := h.1 .cfg (by simp)

theorem AgreeBelowBit12.getV (h : AgreeBelowBit12 s s') (r : Nib) : s'.getV r = s.getV r :=
  h.1 .v (by simp) r

theorem AgreeBelowBit12.display (h : AgreeBelowBit12 s s') : s'.display = s.display :=
  h.1 .display (by simp)

theorem AgreeBelowBit12.dt (h : AgreeBelowBit12 s s') : s'.dt = s.dt := h.1 .dt (by simp)

theorem AgreeBelowBit12.st (h : AgreeBelowBit12 s s') : s'.st = s.st := h.1 .st (by simp)

theorem AgreeBelowBit12.keys (h : AgreeBelowBit12 s s') : s'.keys = s.keys := h.1 .keys (by simp)

theorem AgreeBelowBit12.draws (h : AgreeBelowBit12 s s') : s'.draws = s.draws := h.1 .draws (by simp)

theorem AgreeBelowBit12.agenda (h : AgreeBelowBit12 s s') : s'.agenda = s.agenda :=
  h.1 .agenda (by simp)

theorem AgreeBelowBit12.i (h : AgreeBelowBit12 s s') : sameLow12 s.i s'.i := h.2.1

theorem AgreeBelowBit12.pc (h : AgreeBelowBit12 s s') : sameLow12 s.pc s'.pc := h.2.2.1

theorem AgreeBelowBit12.sp (h : AgreeBelowBit12 s s') : s'.sp = s.sp := h.2.2.2.1

theorem AgreeBelowBit12.topEntry (h : AgreeBelowBit12 s s') : sameLow12 s.topEntry s'.topEntry := by
  obtain ⟨-, -, -, hsp, -, hstack, -⟩ := h
  unfold State.topEntry
  rw [hsp]
  exact hstack (s.sp - 1)

theorem AgreeBelowBit12.run (h : AgreeBelowBit12 s s') : s'.status.run = s.status.run :=
  h.2.2.2.2.2.2.1

theorem AgreeBelowBit12.cause (h : AgreeBelowBit12 s s') : s'.status.cause = s.status.cause :=
  h.2.2.2.2.2.2.2.1

/-- A byte at an address that differs in the high bits. -/
theorem AgreeBelowBit12.readByte (h : AgreeBelowBit12 s s') {w w' : Word} (hw : sameLow12 w w')
    (k : Nat) : s'.readByte (w'.toNat + k) = s.readByte (w.toNat + k) := by
  rw [h.1 .mem (by simp), s.readByte_of_busAddress (hw.busAddress_add k)]

theorem AgreeBelowBit12.bytesFrom (h : AgreeBelowBit12 s s') (n : Nat) :
    s'.bytesFrom s'.i.toNat n = s.bytesFrom s.i.toNat n :=
  List.map_congr_left fun k _ => h.readByte h.i k

theorem AgreeBelowBit12.regBytes (h : AgreeBelowBit12 s s') (x : Nib) :
    s'.regBytes x = s.regBytes x :=
  List.map_congr_left fun k _ => h.getV (regOfNat k)

theorem AgreeBelowBit12.fetchWord (h : AgreeBelowBit12 s s') : s'.fetchWord = s.fetchWord :=
  congrArg₂ wordOfBytes (h.readByte h.pc 0) (h.readByte h.pc 1)

theorem AgreeBelowBit12.keyDown (h : AgreeBelowBit12 s s') (k : Nat) :
    s'.keyDown k = s.keyDown k := by
  unfold State.keyDown
  rw [h.keys]

theorem AgreeBelowBit12.reportedKey (h : AgreeBelowBit12 s s') : s'.reportedKey = s.reportedKey := by
  unfold State.reportedKey State.pressedKeys State.keyDown
  rw [h.cfg, h.draws, h.keys]

theorem AgreeBelowBit12.spriteCanvas (h : AgreeBelowBit12 s s') (x y n : Nib) :
    spriteCanvas x y n s' = spriteCanvas x y n s := by
  unfold Machine.spriteCanvas
  rw [h.cfg, h.getV, h.getV, h.bytesFrom, h.display]

/-! ### Updates keep the agreement -/

/-- A part two states agree on is agreed on by states that have it as they do. -/
theorem agreeOn.transfer {t t' : State} {p : Part} (h : agreeOn s s' p) (ht : agreeOn s t p)
    (ht' : agreeOn s' t' p) : agreeOn t t' p := by
  cases p <;> simp_all [agreeOn]

/-- An update of one visible part, or of DIRTY, to the same in both states. -/
theorem AgreeBelowBit12.of_part (h : AgreeBelowBit12 s s') {q : Part} {t t' : State}
    (hq : q ∉ [.i, .pc, .stack, .status]) (hf : SameExcept [q] s t) (hf' : SameExcept [q] s' t')
    (hagree : q ≠ .dirty → agreeOn t t' q) : AgreeBelowBit12 t t' := by
  have hframes {p : Part} (hp : p ≠ q) : agreeOn s t p ∧ agreeOn s' t' p :=
    ⟨hf p (by simpa using hp), hf' p (by simpa using hp)⟩
  simp only [List.mem_cons, List.not_mem_nil, or_false, not_or] at hq
  obtain ⟨hqi, hqpc, hqstack, hqstatus⟩ := hq
  obtain ⟨hi, hi'⟩ := hframes (Ne.symm hqi)
  obtain ⟨hpc, hpc'⟩ := hframes (Ne.symm hqpc)
  obtain ⟨⟨hstack, hsp⟩, ⟨hstack', hsp'⟩⟩ := hframes (Ne.symm hqstack)
  obtain ⟨hstatus, hstatus'⟩ := hframes (Ne.symm hqstatus)
  obtain ⟨hparts, hrest⟩ := h
  refine ⟨fun p hp => ?_, ?_⟩
  · by_cases hpq : p = q
    · subst hpq
      exact hagree fun hd => hp (by simp [hd])
    · obtain ⟨ht, ht'⟩ := hframes hpq
      exact (hparts p hp).transfer ht ht'
  · rw [hi, hi', hpc, hpc', hstack, hsp, hstack', hsp', hstatus, hstatus']
    exact hrest

theorem AgreeBelowBit12.setV (h : AgreeBelowBit12 s s') (r : Nib) (b : Byte) :
    AgreeBelowBit12 (s.setV r b) (s'.setV r b) :=
  h.of_part (by simp) (s.setV_frame r b) (s'.setV_frame r b) fun _ r' => by
    rw [State.getV_setV, State.getV_setV, h.getV r']

theorem AgreeBelowBit12.setFlag (h : AgreeBelowBit12 s s') (f : Byte) :
    AgreeBelowBit12 (s.setFlag f) (s'.setFlag f) :=
  h.setV flagReg f

theorem AgreeBelowBit12.mapV (h : AgreeBelowBit12 s s') (y : Nib) (f : Byte → Byte) :
    AgreeBelowBit12 (s.mapV y f) (s'.mapV y f) := by
  unfold State.mapV
  rw [h.getV]
  exact h.setV y _

theorem AgreeBelowBit12.copyV (h : AgreeBelowBit12 s s') (x y : Nib) :
    AgreeBelowBit12 (s.copyV x y) (s'.copyV x y) := by
  unfold State.copyV
  rw [h.getV]
  exact h.setV x _

theorem AgreeBelowBit12.setRegsFrom (h : AgreeBelowBit12 s s') (k : Nat) (bs : List Byte) :
    AgreeBelowBit12 (State.setRegsFrom k bs s) (State.setRegsFrom k bs s') := by
  induction bs generalizing k s s' with
  | nil => exact h
  | cons b bs ih => exact ih (h.setV (regOfNat k) b) (k + 1)

theorem AgreeBelowBit12.setDisplay (h : AgreeBelowBit12 s s') (d : Display) :
    AgreeBelowBit12 (s.setDisplay d) (s'.setDisplay d) :=
  h.of_part (by simp) (s.setDisplay_frame d) (s'.setDisplay_frame d) fun _ => rfl

theorem AgreeBelowBit12.setDirty (h : AgreeBelowBit12 s s') (b : Bool) :
    AgreeBelowBit12 (s.setDirty b) (s'.setDirty b) :=
  h.of_part (by simp) (s.setDirty_frame b) (s'.setDirty_frame b) fun _ => rfl

theorem AgreeBelowBit12.setDt (h : AgreeBelowBit12 s s') (b : Byte) :
    AgreeBelowBit12 (s.setDt b) (s'.setDt b) :=
  h.of_part (by simp) (s.setDt_frame b) (s'.setDt_frame b) fun _ => rfl

theorem AgreeBelowBit12.setSt (h : AgreeBelowBit12 s s') (b : Byte) :
    AgreeBelowBit12 (s.setSt b) (s'.setSt b) :=
  h.of_part (by simp) (s.setSt_frame b) (s'.setSt_frame b) fun _ => rfl

theorem AgreeBelowBit12.setAgenda (h : AgreeBelowBit12 s s') (events : List Event) :
    AgreeBelowBit12 (s.setAgenda events) (s'.setAgenda events) :=
  h.of_part (by simp) (s.setAgenda_frame events) (s'.setAgenda_frame events) fun _ => rfl

theorem AgreeBelowBit12.setKeys (h : AgreeBelowBit12 s s') (levels : Word) :
    AgreeBelowBit12 (s.setKeys levels) (s'.setKeys levels) :=
  h.of_part (by simp) (s.setKeys_frame levels) (s'.setKeys_frame levels) fun _ => rfl

theorem AgreeBelowBit12.countDraw (h : AgreeBelowBit12 s s') :
    AgreeBelowBit12 s.countDraw s'.countDraw :=
  h.of_part (by simp) s.countDraw_frame s'.countDraw_frame fun _ => congrArg (· + 1) h.draws

theorem AgreeBelowBit12.afterKeyChoice (h : AgreeBelowBit12 s s') :
    AgreeBelowBit12 s.afterKeyChoice s'.afterKeyChoice := by
  unfold State.afterKeyChoice
  rw [h.cfg]
  cases s.cfg.keyPriority with
  | lowest => exact h
  | any => exact h.countDraw

/-- A store at addresses that differ in the high bits. -/
theorem AgreeBelowBit12.writeBytes (h : AgreeBelowBit12 s s') {a a' : Nat}
    (ha : ∀ k, busAddress (a + k) = busAddress (a' + k)) (bs : List Byte) :
    AgreeBelowBit12 (State.writeBytes a bs s) (State.writeBytes a' bs s') := by
  induction bs generalizing a a' s s' with
  | nil => exact h
  | cons b bs ih =>
    have hbyte : AgreeBelowBit12 (s.writeByte a b) (s'.writeByte a' b) :=
      h.of_part (by simp) (s.writeByte_frame a b) (s'.writeByte_frame a' b) fun _ c => by
        have h0 : busAddress a = busAddress a' := ha 0
        rw [State.readByte_writeByte, State.readByte_writeByte, h0, h.1 .mem (by simp) c]
    exact ih hbyte fun k => by simpa [Nat.add_assoc] using ha (1 + k)

theorem AgreeBelowBit12.setI (h : AgreeBelowBit12 s s') {w w' : Word} (hw : sameLow12 w w') :
    AgreeBelowBit12 (s.setI w) (s'.setI w') := by
  obtain ⟨hparts, -, hrest⟩ := h
  refine ⟨fun p hp => ?_, hw, hrest⟩
  cases p with
  | i => simp at hp
  | _ => exact hparts _ hp

theorem AgreeBelowBit12.setPc (h : AgreeBelowBit12 s s') {w w' : Word} (hw : sameLow12 w w') :
    AgreeBelowBit12 (s.setPc w) (s'.setPc w') := by
  obtain ⟨hparts, hi, -, hrest⟩ := h
  refine ⟨fun p hp => ?_, hi, hw, hrest⟩
  cases p with
  | pc => simp at hp
  | _ => exact hparts _ hp

theorem AgreeBelowBit12.advance (h : AgreeBelowBit12 s s') : AgreeBelowBit12 s.advance s'.advance :=
  h.setPc (h.pc.add (.refl _))

theorem AgreeBelowBit12.setStack (h : AgreeBelowBit12 s s') {l l' : List Word} (n : Nat)
    (hlen : l'.length = l.length) (hl : ∀ k, sameLow12 (l.getD k 0#16) (l'.getD k 0#16)) :
    AgreeBelowBit12 (s.setStack l n) (s'.setStack l' n) := by
  obtain ⟨hparts, hi, hpc, -, -, -, hstatus⟩ := h
  refine ⟨fun p hp => ?_, hi, hpc, rfl, hlen, hl, hstatus⟩
  cases p with
  | stack => simp at hp
  | _ => exact hparts _ hp

theorem AgreeBelowBit12.push (h : AgreeBelowBit12 s s') {w w' : Word} (hw : sameLow12 w w') :
    AgreeBelowBit12 (s.push w) (s'.push w') := by
  have hstack := h
  obtain ⟨-, -, -, hsp, hlen, hentries, -⟩ := hstack
  unfold State.push
  rw [hsp]
  refine h.setStack _ (by simp [hlen]) fun k => ?_
  have hk := hentries k
  simp only [List.getD_eq_getElem?_getD, List.getElem?_set, hlen] at hk ⊢
  split
  · split
    · exact hw
    · rfl
  · exact hk

theorem AgreeBelowBit12.pop (h : AgreeBelowBit12 s s') : AgreeBelowBit12 s.pop s'.pop := by
  have hstack := h
  obtain ⟨-, -, -, hsp, hlen, hentries, -⟩ := hstack
  unfold State.pop
  rw [hsp]
  exact h.setStack _ hlen hentries

theorem AgreeBelowBit12.setStatus (h : AgreeBelowBit12 s s') (c : Cause) {a a' : Word}
    (ha : sameLow12 a a') (w : Word) :
    AgreeBelowBit12 (s.setStatus (haltStatus c a w)) (s'.setStatus (haltStatus c a' w)) := by
  obtain ⟨hparts, hi, hpc, hsp, hlen, hstack, -⟩ := h
  refine ⟨fun p hp => ?_, hi, hpc, hsp, hlen, hstack, rfl, rfl, rfl, ha⟩
  cases p with
  | status => simp at hp
  | _ => exact hparts _ hp

/-! ### Instructions -/

theorem AgreeBelowBit12.setPcIf (h : AgreeBelowBit12 s s') (p : Prop) [Decidable p] :
    AgreeBelowBit12 (s.setPc (if p then s.pc + 2#16 else s.pc))
      (s'.setPc (if p then s'.pc + 2#16 else s'.pc)) := by
  split
  · exact h.setPc (h.pc.add (.refl _))
  · exact h.setPc h.pc

theorem AgreeBelowBit12.setPcUnless (h : AgreeBelowBit12 s s') (p : Prop) [Decidable p] :
    AgreeBelowBit12 (s.setPc (if p then s.pc else s.pc + 2#16))
      (s'.setPc (if p then s'.pc else s'.pc + 2#16)) := by
  split
  · exact h.setPc h.pc
  · exact h.setPc (h.pc.add (.refl _))

theorem AgreeBelowBit12.effect (h : AgreeBelowBit12 s s') (i : Instr) :
    AgreeBelowBit12 (effect s i) (effect s' i) := by
  cases i with
  | cls => exact (h.setDisplay _).setDirty _
  | ret => exact h.pop.setPc h.topEntry
  | jpNnn nnn => exact h.setPc (.refl _)
  | callNnn nnn => exact (h.push h.pc).setPc (.refl _)
  | seVxNn x nn => simpa only [Machine.effect, h.getV] using h.setPcIf (s.getV x = nn)
  | sneVxNn x nn => simpa only [Machine.effect, h.getV] using h.setPcUnless (s.getV x = nn)
  | seVxVy x y => simpa only [Machine.effect, h.getV] using h.setPcIf (s.getV x = s.getV y)
  | sneVxVy x y => simpa only [Machine.effect, h.getV] using h.setPcUnless (s.getV x = s.getV y)
  | skpVx x =>
    simpa only [Machine.effect, h.getV, h.keyDown] using
      h.setPcIf (s.keyDown (lowNibble (s.getV x)))
  | sknpVx x =>
    simpa only [Machine.effect, h.getV, h.keyDown] using
      h.setPcUnless (s.keyDown (lowNibble (s.getV x)))
  | ldVxNn | addVxNn | ldVxVy | orVxVy | andVxVy | xorVxVy =>
    simpa only [Machine.effect, h.getV] using h.setV _ _
  | addVxVy | subVxVy | subnVxVy =>
    simpa only [Machine.effect, State.setResultThenFlag, h.getV] using (h.setV _ _).setFlag _
  | shrVxVy x y | shlVxVy x y =>
    simpa only [Machine.effect, h.getV] using ((h.setFlag _).mapV y _).copyV x y
  | ldINnn => exact h.setI (.refl _)
  | jpV0Nnn =>
    simpa only [Machine.effect, h.getV] using h.setPc (.refl _)
  | rndVxNn x nn =>
    simpa only [Machine.effect, State.setRandom, h.draws] using
      h.countDraw.setV x (Config.randomByte s.draws &&& nn)
  | drwVxVyN x y n =>
    simpa only [Machine.effect, h.spriteCanvas] using ((h.setDisplay _).setFlag _).setDirty true
  | ldVxDt => simpa only [Machine.effect, h.dt] using h.setV _ _
  | ldVxK x =>
    cases hk : s.reportedKey with
    | none => simpa [Machine.effect, h.reportedKey, hk] using h.setPc (h.pc.sub _)
    | some k => simpa only [Machine.effect, h.reportedKey, hk] using h.afterKeyChoice.setV x _
  | ldDtVx => simpa only [Machine.effect, h.getV] using h.setDt _
  | ldStVx => simpa only [Machine.effect, h.getV] using h.setSt _
  | addIVx => simpa only [Machine.effect, h.getV] using h.setI (h.i.add (.refl _))
  | ldFVx => simpa only [Machine.effect, h.getV, h.cfg] using h.setI (.refl _)
  | ldBVx => simpa only [Machine.effect, h.getV] using h.writeBytes h.i.busAddress_add _
  | ldMemVx => simpa only [Machine.effect, h.regBytes] using h.writeBytes h.i.busAddress_add _
  | ldVxMem => simpa only [Machine.effect, h.bytesFrom] using h.setRegsFrom _ _

/-- What two moves answer agrees: both go on in agreeing states, or both stop for the same reason. -/
def ResultsAgree : Result → Result → Prop
  | .next t, .next t' => AgreeBelowBit12 t t'
  | .fault f, .fault f' => f = f'
  | .refused r, .refused r' => r = r'
  | _, _ => False

theorem AgreeBelowBit12.nibbleStop (h : AgreeBelowBit12 s s') (i : Instr) :
    nibbleStop i s' = nibbleStop i s := by
  have hoperand : nibbleOperandOf s' i = nibbleOperandOf s i := by
    cases i with
    | skpVx | sknpVx | ldFVx => exact congrArg some (h.getV _)
    | _ => rfl
  unfold Machine.nibbleStop
  rw [hoperand, h.cfg]

theorem AgreeBelowBit12.raisedCause (h : AgreeBelowBit12 s s') (hwrap : s.cfg.addrOor = .wrap)
    (i : Instr) : raisedCause s' i = raisedCause s i := by
  unfold Machine.raisedCause
  simp only [h.cfg, h.sp, rangeFault_wrap hwrap]

theorem AgreeBelowBit12.exec (h : AgreeBelowBit12 s s') (hwrap : s.cfg.addrOor = .wrap) (i : Instr) :
    ResultsAgree (exec i s) (exec i s') := by
  have hstop' := h.nibbleStop i
  have hraised' := h.raisedCause hwrap i
  rcases exec_cases i s with ⟨hstop, he⟩ | ⟨c, hstop, hraised, he⟩ | ⟨hstop, hraised, he⟩ <;>
    rw [he]
  · rw [exec_stops (hstop'.trans hstop)]
    rfl
  · rw [exec_raises (hstop'.trans hstop) (hraised'.trans hraised)]
    exact h.setStatus c (h.pc.sub _) _
  · rw [exec_effect (hstop'.trans hstop) (hraised'.trans hraised)]
    exact h.effect i

/-! ### Moves -/

theorem AgreeBelowBit12.instructionCycle (h : AgreeBelowBit12 s s') (hwrap : s.cfg.addrOor = .wrap) :
    ResultsAgree (instructionCycle s) (instructionCycle s') := by
  have hrange' : rangeFault s'.cfg s'.pc.toNat 2 = false := by rw [h.cfg, rangeFault_wrap hwrap]
  rcases instructionCycle_cases s with ⟨hrun, he⟩ | ⟨-, hrange, -⟩ | ⟨hrun, -, hdecode, he⟩ |
    ⟨hrun, -, i, hdecode, he⟩
  · rw [he, instructionCycle_halted (h.run.trans hrun), h.cause]
    rfl
  · rw [rangeFault_wrap hwrap] at hrange
    cases hrange
  · rw [he, instructionCycle_illegal (h.run.trans hrun) hrange' (h.fetchWord ▸ hdecode), h.fetchWord]
    exact h.advance.setStatus .decodeError h.pc _
  · rw [he, instructionCycle_exec (h.run.trans hrun) hrange' (h.fetchWord ▸ hdecode)]
    exact h.advance.exec hwrap i

theorem AgreeBelowBit12.tick (h : AgreeBelowBit12 s s') : AgreeBelowBit12 (tick s) (tick s') := by
  unfold Machine.tick
  rw [h.run, h.dt, h.st]
  split
  · exact (h.setDt _).setSt _
  · exact h

theorem AgreeBelowBit12.refl (s : State) : AgreeBelowBit12 s s :=
  ⟨SameExcept.refl _ s, rfl, rfl, rfl, rfl, fun _ => rfl, rfl, rfl, rfl, rfl⟩

/-- RESET forgets every part the two states may differ in. -/
theorem AgreeBelowBit12.restart (h : AgreeBelowBit12 s s') (image : List Byte) :
    ResultsAgree (restart image s) (restart image s') := by
  have hreset : s'.afterReset = s.afterReset := by
    unfold State.afterReset
    rw [h.cfg, h.keys, h.draws, h.agenda]
  by_cases hlong : progMax < image.length
  · rw [restart_of_long hlong, restart_of_long hlong]
    rfl
  · rw [restart_of_fits (Nat.not_lt.1 hlong), restart_of_fits (Nat.not_lt.1 hlong), hreset]
    exact .refl _

theorem AgreeBelowBit12.step (h : AgreeBelowBit12 s s') (hwrap : s.cfg.addrOor = .wrap) :
    ResultsAgree (step s) (step s') := by
  rcases step_cases s with ⟨rest, hturn, he⟩ | ⟨rest, ha, he⟩ | ⟨levels, rest, ha, he⟩ |
    ⟨rest, ha, he⟩ | ⟨image, rest, ha, he⟩ <;> rw [he]
  · rw [step_of_stepTurn (h.agenda ▸ hturn)]
    exact (h.setAgenda rest).instructionCycle hwrap
  all_goals rw [step_of_event (h.agenda.trans ha)]
  · exact (h.setAgenda rest).tick
  · exact (h.setAgenda rest).setKeys levels
  · exact (h.setAgenda rest).setDirty false
  · exact (h.setAgenda rest).restart image

end

/-- Settles O59: the agreement of the answers, read from each answer of the first state. -/
theorem highBitsAndDirtyUnobservable : Obligations.HighBitsAndDirtyUnobservable := by
  intro s s' hwrap h
  have hagree := h.step hwrap
  constructor
  · intro t ht
    rw [ht] at hagree
    cases ht' : Machine.step s' with
    | next t' => exact ⟨t', rfl, by rwa [ht'] at hagree⟩
    | fault | refused => rw [ht'] at hagree; exact hagree.elim
  · intro f hf
    rw [hf] at hagree
    cases hf' : Machine.step s' with
    | fault f' => rw [hf'] at hagree; rw [show f = f' from hagree]
    | next | refused => rw [hf'] at hagree; exact hagree.elim

end Sys2Proof.Machine
end

section
/-! Proofs of the family 40_control_flow.md: call and return (R70, R72), the skips on registers (R75,
R76) and the jump with offset (R77). -/

namespace Sys2Proof

/-! ### The words of 5XYN and 9XYN -/

theorem decode_formatXYN_skipEq (x y n : Nib) :
    decode (formatXYN 0x5#4 x y n) = if n = 0#4 then some (.seVxVy x y) else none := by
  simp [decode]

theorem decode_formatXYN_skipNe (x y n : Nib) :
    decode (formatXYN 0x9#4 x y n) = if n = 0#4 then some (.sneVxVy x y) else none := by
  simp [decode]

end Sys2Proof

namespace Sys2Proof.Machine

/-! ### Call and return -/

theorem exec_callNnn_room {s : State} (nnn : Addr) (hroom : s.sp < s.cfg.stackDepth) :
    exec (.callNnn nnn) s = .next (effect s (.callNnn nnn)) :=
  exec_effect rfl (if_neg (Nat.not_le.2 hroom))

theorem exec_ret_entry {s : State} (hentry : 0 < s.sp) : exec .ret s = .next (effect s .ret) :=
  exec_effect rfl (if_neg (Nat.ne_of_gt hentry))

/-- Settles O11: the call is a push of pc and a jump. -/
theorem callPushesAdvancedPc : Obligations.CallPushesAdvancedPc := by
  intro nnn s hlen hroom
  refine ⟨_, exec_callNnn_room nnn hroom, zextAddr_toNat nnn, rfl, List.length_set,
    List.getElem?_set_self (hlen ▸ hroom), fun k hk => List.getElem?_set_ne hk.symm,
    effect_frame (.callNnn nnn) s⟩

/-- Settles O12: the condition of StackOverflow holds at SP = STACK_DEPTH. -/
theorem callOnFullStackHalts : Obligations.CallOnFullStackHalts := by
  intro nnn s hfull
  have hraised : raisedCause s (.callNnn nnn) = some .stackOverflow := if_pos hfull.ge
  exact ⟨_, exec_raises rfl hraised, rfl, s.setStatus_frame _⟩

/-- Settles O13: the return is a pop and a jump to the entry popped. -/
theorem returnPopsPc : Obligations.ReturnPopsPc := by
  intro s e hpos hentry
  have htop : s.topEntry = e := by simp [State.topEntry, hentry]
  exact ⟨_, exec_ret_entry hpos, htop, rfl, rfl, effect_frame .ret s⟩

/-- Settles O14: the condition of StackUnderflow holds at SP = 0. -/
theorem returnOnEmptyStackHalts : Obligations.ReturnOnEmptyStackHalts := by
  intro s hempty
  have hraised : raisedCause s .ret = some .stackUnderflow := if_pos hempty
  exact ⟨_, exec_raises rfl hraised, rfl, s.setStatus_frame _⟩

/-- Settles O15: the return pops the entry the call pushed, which is the only one that differs. -/
theorem returnUndoesCall : Obligations.ReturnUndoesCall := by
  intro nnn s p hlen hroom
  obtain ⟨t, hcall, -, hsp, -, hpushed, hothers, hframe⟩ := callPushesAdvancedPc nnn s hlen hroom
  have htop : (t.setPc p).stack[(t.setPc p).sp - 1]? = some s.pc := by simpa [hsp] using hpushed
  obtain ⟨u, hret, hpc, husp, hustack, huframe⟩ := returnPopsPc (t.setPc p) s.pc (by simp [hsp]) htop
  refine ⟨t, u, hcall, hret, hpc, by simp [husp, hsp], fun k hk => ?_, fun q hq => ?_⟩
  · rw [hustack]
    exact hothers k hk
  · by_cases hpcq : q = .pc
    · subst hpcq
      exact hpc
    · exact ((hframe.comp (t.setPc_frame p)).comp huframe) q (by simpa [hpcq] using hq)

/-! ### Skips and jumps -/

/-- Settles O17: each skip is one update of pc, and the last nibble is compared. -/
theorem skipOnRegisters : Obligations.SkipOnRegisters := by
  intro x y s
  refine ⟨decode_formatXYN_skipEq x y 0#4, decode_formatXYN_skipNe x y 0#4, fun n hn => ⟨?_, ?_⟩,
    ⟨_, exec_seVxVy_eq x y s, rfl, s.setPc_frame _⟩, ⟨_, exec_sneVxVy_eq x y s, rfl, s.setPc_frame _⟩⟩
  · exact (decode_formatXYN_skipEq x y n).trans (if_neg hn)
  · exact (decode_formatXYN_skipNe x y n).trans (if_neg hn)

/-- Settles O18: the sum of a 12-bit address and a byte fits 16 bits. -/
theorem jumpWithOffsetAddsV0 : Obligations.JumpWithOffsetAddsV0 := by
  intro nnn s
  have hsum : (zextAddr nnn + zextByte (s.getV 0#4)).toNat = nnn.toNat + (s.getV 0#4).toNat := by
    rw [BitVec.toNat_add, zextAddr_toNat, zextByte_toNat]
    omega
  exact ⟨_, rfl, hsum, s.setPc_frame _⟩

end Sys2Proof.Machine
end

section
/-! Proofs of the family 41_alu.md: the instructions that write VF beside V[X] (R86 to R90), and the
random byte (R91). -/

namespace Sys2Proof.Machine

/-! ### Flags as numbers -/

theorem flagByte_toNat (cond : Bool) : (flagByte cond).toNat = cond.toNat := by
  cases cond <;> rfl

theorem carryFlag_eq (a b : Byte) :
    carryFlag a b = if a.toNat + b.toNat > 255 then 1#8 else 0#8 := by
  simp [carryFlag, flagByte]

theorem notBorrowFlag_eq (a b : Byte) :
    notBorrowFlag a b = if a.toNat < b.toNat then 0#8 else 1#8 := by
  by_cases h : a.toNat < b.toNat <;> simp [notBorrowFlag, flagByte, h]

theorem lowBitFlag_toNat (b : Byte) : (lowBitFlag b).toNat = b.toNat % 2 := by
  rw [lowBitFlag, flagByte_toNat, BitVec.getLsbD, Nat.testBit_zero]
  rcases Nat.mod_two_eq_zero_or_one b.toNat with h | h <;> simp [h]

theorem highBitFlag_toNat (b : Byte) : (highBitFlag b).toNat = b.toNat / 128 := by
  have hbit : b.toNat / 2 ^ 7 = 0 ∨ b.toNat / 2 ^ 7 = 1 := by
    have := b.isLt
    omega
  rw [highBitFlag, flagByte_toNat, BitVec.getLsbD, Nat.testBit_eq_decide_div_mod_eq]
  rcases hbit with h | h <;> rw [h] <;> exact h.symm

/-- The byte difference is the difference modulo 256. -/
theorem toInt_sub_byte (a b : Byte) :
    ((a - b).toNat : Int) = ((a.toNat : Int) - b.toNat) % 256 := by
  have := a.isLt
  have := b.isLt
  rw [BitVec.toNat_sub]
  omega

/-! ### A result, then a flag -/

/-- What 8XY4, 8XY5 and 8XY7 do: the flag survives where X is 0xF. -/
theorem exec_writesResultThenFlag {i : Instr} {s : State} {x : Nib} {result flag : Byte}
    (h : exec i s = .next (s.setResultThenFlag x result flag)) :
    ∃ t, exec i s = .next t ∧ t.getV 0xF#4 = flag ∧ (x ≠ 0xF#4 → t.getV x = result) ∧
      SameRegsExcept [x, 0xF#4] s t ∧ SameExcept [.v] s t :=
  ⟨_, h, State.getV_setV_same _ flagReg flag,
    fun hx => (State.getV_setV_other _ hx flag).trans (s.getV_setV_same x result),
    (s.setV_regsFrame x result).comp (State.setV_regsFrame flagReg flag _),
    (s.setV_frame x result).trans (State.setV_frame flagReg flag _)⟩

/-- Settles O22: the byte sum and its carry. -/
theorem addSetsCarry : Obligations.AddSetsCarry := by
  intro x y s
  obtain ⟨t, ht, hflag, hx, hframes⟩ := exec_writesResultThenFlag (i := .addVxVy x y) (s := s) rfl
  refine ⟨t, ht, hflag.trans (carryFlag_eq _ _), fun hne => ?_, hframes⟩
  rw [hx hne, BitVec.toNat_add]

/-- Settles O23: the byte difference and its borrow. -/
theorem subtractSetsNotBorrow : Obligations.SubtractSetsNotBorrow := by
  intro x y s
  obtain ⟨t, ht, hflag, hx, hframes⟩ := exec_writesResultThenFlag (i := .subVxVy x y) (s := s) rfl
  refine ⟨t, ht, hflag.trans (notBorrowFlag_eq _ _), fun hne => ?_, hframes⟩
  rw [hx hne, toInt_sub_byte]

/-- Settles O24: the byte difference the other way, and its borrow. -/
theorem reverseSubtractSetsNotBorrow : Obligations.ReverseSubtractSetsNotBorrow := by
  intro x y s
  obtain ⟨t, ht, hflag, hx, hframes⟩ := exec_writesResultThenFlag (i := .subnVxVy x y) (s := s) rfl
  refine ⟨t, ht, hflag.trans (notBorrowFlag_eq _ _), fun hne => ?_, hframes⟩
  rw [hx hne, toInt_sub_byte]

/-! ### Shifts -/

/-- The three statements of a shift by `f`, whose bit shifted out is `flag`. -/
def State.shiftBy (f : Byte → Byte) (flag : Byte) (x y : Nib) (s : State) : State :=
  ((s.setFlag flag).mapV y f).copyV x y

theorem State.shiftBy_getV_target (f : Byte → Byte) (flag : Byte) (x y : Nib) (s : State) :
    (s.shiftBy f flag x y).getV x = f ((s.setFlag flag).getV y) :=
  (State.getV_setV_same _ x _).trans (State.getV_setV_same _ y _)

theorem State.shiftBy_getV_source (f : Byte → Byte) (flag : Byte) (x y : Nib) (s : State) :
    (s.shiftBy f flag x y).getV y = f ((s.setFlag flag).getV y) := by
  have hmapped : ((s.setFlag flag).mapV y f).getV y = f ((s.setFlag flag).getV y) :=
    State.getV_setV_same _ y _
  unfold State.shiftBy State.copyV
  rw [State.getV_setV, hmapped, ite_self]

theorem State.shiftBy_getV_flag (f : Byte → Byte) (flag : Byte) {x y : Nib} (hx : x ≠ 0xF#4)
    (hy : y ≠ 0xF#4) (s : State) : (s.shiftBy f flag x y).getV 0xF#4 = flag :=
  ((State.getV_setV_other _ hx.symm _).trans (State.getV_setV_other _ hy.symm _)).trans
    (s.getV_setV_same flagReg flag)

/-- What 8XY6 and 8XYE do: the flag is written first, so a shift of V[0xF] shifts the flag. -/
theorem exec_shifts {i : Instr} {s : State} {x y : Nib} {f : Byte → Byte} {flag : Byte}
    (h : exec i s = .next (s.shiftBy f flag x y)) :
    ∃ t, exec i s = .next t ∧ (x ≠ 0xF#4 → y ≠ 0xF#4 → t.getV 0xF#4 = flag) ∧
      (y ≠ 0xF#4 → t.getV x = f (s.getV y) ∧ t.getV y = f (s.getV y)) ∧
      (y = 0xF#4 → t.getV x = f flag ∧ t.getV y = f flag) ∧
      SameRegsExcept [x, y, 0xF#4] s t ∧ SameExcept [.v] s t := by
  refine ⟨_, h, fun hx hy => s.shiftBy_getV_flag f flag hx hy, fun hy => ?_, fun hy => ?_, ?_, ?_⟩
  · have hsource : (s.setFlag flag).getV y = s.getV y := State.getV_setV_other _ hy flag
    rw [State.shiftBy_getV_target, State.shiftBy_getV_source, hsource]
    exact ⟨rfl, rfl⟩
  · have hsource : (s.setFlag flag).getV y = flag := hy ▸ State.getV_setV_same _ flagReg flag
    rw [State.shiftBy_getV_target, State.shiftBy_getV_source, hsource]
    exact ⟨rfl, rfl⟩
  · exact (((s.setV_regsFrame flagReg flag).comp (State.setV_regsFrame y _ _)).comp
      (State.setV_regsFrame x _ _)).mono (by simp [flagReg])
  · exact ((s.setV_frame _ _).trans (State.setV_frame _ _ _)).trans (State.setV_frame _ _ _)

/-- Settles O25: a shift by halving, of a flag to 0. -/
theorem shiftRightWritesBoth : Obligations.ShiftRightWritesBoth := by
  intro x y s
  obtain ⟨t, ht, hflag, hother, hself, hframes⟩ := exec_shifts (i := .shrVxVy x y) (s := s)
    (f := fun b => b >>> 1) (flag := lowBitFlag (s.getV y)) rfl
  have hhalf (b : Byte) : (b >>> 1).toNat = b.toNat / 2 := by simp [Nat.shiftRight_eq_div_pow]
  have hzero (c : Bool) : flagByte c >>> 1 = 0#8 := by cases c <;> rfl
  refine ⟨t, ht, fun hx hy => ?_, fun hy => ?_, fun hy => ?_, hframes⟩
  · rw [hflag hx hy, lowBitFlag_toNat]
  · obtain ⟨htx, hty⟩ := hother hy
    rw [htx, hty, hhalf]
    exact ⟨rfl, rfl⟩
  · obtain ⟨htx, hty⟩ := hself hy
    exact ⟨htx.trans (hzero _), hty.trans (hzero _)⟩

/-- Settles O26: a shift by doubling modulo 256, of a flag to twice the flag. -/
theorem shiftLeftWritesBoth : Obligations.ShiftLeftWritesBoth := by
  intro x y s
  obtain ⟨t, ht, hflag, hother, hself, hframes⟩ := exec_shifts (i := .shlVxVy x y) (s := s)
    (f := fun b => b <<< 1) (flag := highBitFlag (s.getV y)) rfl
  have hdouble (b : Byte) : (b <<< 1).toNat = 2 * b.toNat % 256 := by
    simp [Nat.shiftLeft_eq, Nat.mul_comm]
  have hbit : (s.getV y).toNat / 128 < 2 := by have := (s.getV y).isLt; omega
  refine ⟨t, ht, fun hx hy => ?_, fun hy => ?_, fun hy => ?_, hframes⟩
  · rw [hflag hx hy, highBitFlag_toNat]
  · obtain ⟨htx, hty⟩ := hother hy
    rw [htx, hty, hdouble]
    exact ⟨rfl, rfl⟩
  · obtain ⟨htx, hty⟩ := hself hy
    rw [htx, hty, hdouble, highBitFlag_toNat]
    omega

/-- Settles O27: one write of V[X] after one more draw is counted. -/
theorem randomIsMaskedFreeByte : Obligations.RandomIsMaskedFreeByte := by
  intro x nn s
  refine ⟨_, rfl, fun k => ?_, rfl, State.setV_regsFrame x _ s.countDraw,
    effect_frame (.rndVxNn x nn) s⟩
  rw [State.setRandom, State.getV_setV_same, BitVec.getLsbD_and]

end Sys2Proof.Machine
end

section
/-! Proofs of the family 42_index_memory.md: sums and glyph addresses in I (R101, R102), and the
instructions that store and load at I (R103 to R105). -/

namespace Sys2Proof.Machine

/-! ### The address register -/

/-- Settles O29: a 16-bit sum with a byte. -/
theorem addToIndexWrapsAt16Bits : Obligations.AddToIndexWrapsAt16Bits := by
  intro x s
  have hsum : (s.i + zextByte (s.getV x)).toNat = (s.i.toNat + (s.getV x).toNat) % 65536 := by
    rw [BitVec.toNat_add, zextByte_toNat]
  exact ⟨_, rfl, hsum, s.setI_frame _⟩

/-- A well-formed configuration has its font below 0x200, so a glyph's address fits 16 bits. -/
theorem glyphAddress_toNat {c : Config} (hwf : c.wf = true) {d : Nat} (hd : d < 16) :
    (glyphAddress c d).toNat = c.fontBase + 5 * d := by
  have hfont : c.fontBase + 80 ≤ 512 := by
    simp only [Config.wf, Bool.and_eq_true, decide_eq_true_eq] at hwf
    exact hwf.2
  rw [glyphAddress, BitVec.toNat_ofNat, glyphBytes]
  omega

/-- Settles O30: on a hex digit FX29 has its effect, an update of I. -/
theorem fontGlyphAddress : Obligations.FontGlyphAddress := by
  intro x s hwf hnibble
  have hstop : nibbleStop (.ldFVx x) s = false := nibbleFault_false hnibble
  have hraised : raisedCause s (.ldFVx x) = none :=
    raisedCause_eq_none (by simp) (by simp) (rangeFault_zero _ _)
  refine ⟨_, exec_effect hstop hraised, ?_, s.setI_frame _⟩
  have haddress := glyphAddress_toNat hwf (Nat.mod_lt (s.getV x).toNat (by decide : 0 < 16))
  rwa [← lowNibble_eq] at haddress ⊢

/-- Settles O31: the value is no hex digit, for each of the three instructions. -/
theorem nibbleOperandStopsUnderFault : Obligations.NibbleOperandStopsUnderFault := by
  intro x s hfault hlarge
  have hvalue : nibbleFault s.cfg (s.getV x) = true := by simp [nibbleFault, hfault, hlarge]
  exact ⟨exec_stops hvalue, exec_stops hvalue, exec_stops hvalue⟩

/-! ### Stores and loads at I -/

/-- A store or load at I that stays within memory, or that wraps, has its effect. -/
theorem exec_access {i : Instr} {s : State} (hnibble : nibbleOperandOf s i = none)
    (hrange : rangeFault s.cfg s.i.toNat (accessBytes i) = false) (haccess : 0 < accessBytes i) :
    exec i s = .next (effect s i) := by
  have hstop : nibbleStop i s = false := by simp [nibbleStop, hnibble]
  refine exec_effect hstop (raisedCause_eq_none ?_ ?_ hrange)
  · rintro ⟨nnn, rfl⟩
    exact absurd haccess (Nat.lt_irrefl 0)
  · rintro rfl
    exact absurd haccess (Nat.lt_irrefl 0)

/-- What a store of at most 4096 bytes at `a` leaves, byte by byte. -/
theorem State.writeBytes_readByte {s : State} {a k : Nat} {bs : List Byte} {b : Byte}
    (hlen : bs.length ≤ memSize) (hk : bs[k]? = some b) :
    (State.writeBytes a bs s).readByte (a + k) = b := by
  obtain ⟨hlt, hb⟩ := List.getElem?_eq_some_iff.1 hk
  rw [State.writeBytes_same a bs s hlen k hlt, hb]

/-- Settles O33: the three digits of a byte fit bytes, and are stored in order. -/
theorem decimalDigitsStored : Obligations.DecimalDigitsStored := by
  intro x s hrange
  have hbyte := (s.getV x).isLt
  have hstored {k : Nat} {b : Byte} (hk : (decimalDigits (s.getV x))[k]? = some b) :
      (effect s (.ldBVx x)).readByte (s.i.toNat + k) = b :=
    State.writeBytes_readByte (by simp [memSize]) hk
  refine ⟨_, exec_access rfl hrange (Nat.succ_pos 2), ?_, ?_, ?_,
    State.writeBytes_other s.i.toNat (decimalDigits (s.getV x)) s, effect_frame (.ldBVx x) s⟩
  · rw [← Nat.add_zero s.i.toNat, hstored (k := 0) rfl, BitVec.toNat_ofNat]
    omega
  · rw [hstored (k := 1) rfl, BitVec.toNat_ofNat]
    omega
  · rw [hstored (k := 2) rfl, BitVec.toNat_ofNat]
    omega

/-- Settles O34: byte `r` of the store is V[r]. -/
theorem registersStored : Obligations.RegistersStored := by
  intro x s hrange
  have hx := x.isLt
  have hlen : (s.regBytes x).length ≤ memSize := by
    rw [State.regBytes_length, memSize]
    omega
  refine ⟨_, exec_access rfl hrange (Nat.succ_pos _), fun r hr => ?_, fun a ha => ?_,
    effect_frame (.ldMemVx x) s⟩
  · have hlt : r.toNat < (s.regBytes x).length := by
      rw [State.regBytes_length]
      omega
    change (State.writeBytes _ (s.regBytes x) s).readByte _ = _
    rw [State.writeBytes_same _ _ s hlen _ hlt, State.regBytes_getElem, regOfNat_toNat]
  · refine State.writeBytes_other _ _ s a fun k hk => ha k ?_
    rw [State.regBytes_length] at hk
    omega

/-- Settles O35: the registers up to X come from memory, the others stay. -/
theorem registersLoaded : Obligations.RegistersLoaded := by
  intro x s hrange
  refine ⟨_, exec_access rfl hrange (Nat.succ_pos _), fun r hr => ?_, fun r hr => ?_,
    effect_frame (.ldVxMem x) s⟩
  · rw [effect_ldVxMem_getV, if_pos hr]
  · rw [effect_ldVxMem_getV, if_neg (Nat.not_le.2 hr)]

end Sys2Proof.Machine
end

section
/-! Proofs of the family 44_keypad_timer.md: the key skips (R120, R121) and the wait for a key (R122). -/

namespace Sys2Proof.Machine

/-! ### The keys that are down -/

theorem State.mem_pressedKeys {s : State} {k : Nat} :
    k ∈ s.pressedKeys ↔ s.keys.getLsbD k = true := by
  simp only [State.pressedKeys, State.keyDown, List.mem_filter, List.mem_range, and_iff_right_iff_imp]
  exact BitVec.lt_of_getLsbD

theorem State.pressedKeys_eq_nil {s : State} : s.pressedKeys = [] ↔ s.keys = 0#16 := by
  rw [List.eq_nil_iff_forall_not_mem]
  simp only [State.mem_pressedKeys]
  constructor
  · intro h
    apply BitVec.eq_of_getLsbD_eq
    intro k hk
    simpa using h k
  · intro h k
    simp [h]

/-- Whatever KEY_PRIORITY, the key reported is down. -/
theorem State.reportedKey_down {s : State} {k : Nat} (h : s.reportedKey = some k) :
    s.keys.getLsbD k = true := by
  rw [← State.mem_pressedKeys]
  unfold State.reportedKey at h
  split at h
  · exact List.mem_of_mem_head? h
  · exact List.mem_of_getElem? h

/-- Whatever KEY_PRIORITY, a key is reported exactly when one is down. -/
theorem State.reportedKey_eq_none {s : State} : s.reportedKey = none ↔ s.keys = 0#16 := by
  rw [← State.pressedKeys_eq_nil]
  unfold State.reportedKey
  split
  · exact List.head?_eq_none_iff
  · rw [List.getElem?_eq_none_iff]
    constructor
    · intro hle
      by_contra hne
      exact absurd hle (Nat.not_le.2 (Nat.mod_lt _ (List.length_pos_iff.2 hne)))
    · intro hnil
      simp [hnil]

/-- Under KEY_PRIORITY = `lowest` the lowest key that is down is reported. -/
theorem State.reportedKey_lowest {s : State} {k : Nat} (hlowest : s.cfg.keyPriority = .lowest)
    (hdown : s.keys.getLsbD k = true) (hleast : ∀ j, j < k → s.keys.getLsbD j = false) :
    s.reportedKey = some k := by
  have hrange : k < 16 := BitVec.lt_of_getLsbD hdown
  simp only [State.reportedKey, hlowest, State.pressedKeys, List.head?_filter]
  rw [List.find?_range_eq_some]
  exact ⟨hdown, List.mem_range.2 hrange, fun j hj => by simp [State.keyDown, hleast j hj]⟩

/-- A key number fits a byte. -/
theorem keyNumber_toNat {keys : Word} {k : Nat} (h : keys.getLsbD k = true) :
    (BitVec.ofNat 8 k).toNat = k := by
  have hrange : k < 16 := BitVec.lt_of_getLsbD h
  rw [BitVec.toNat_ofNat]
  omega

/-! ### FX0A -/

/-- Settles O41: no key is reported, so the Step's advance of pc is undone. -/
theorem waitForKeyChangesNothing : Obligations.WaitForKeyChangesNothing := by
  intro s x rest hrun hrange hturn hword hkeys
  have hdecode : decode s.fetchWord = some (.ldVxK x) :=
    (congrArg decode hword).trans (decode_formatXNN_groupF x 0x0A#8)
  have hnone : (s.setAgenda rest).advance.reportedKey = none := State.reportedKey_eq_none.2 hkeys
  rw [step_eq_exec hrun hrange hturn hdecode, exec_ldVxK_eq]
  rcases effect_ldVxK_cases x (s.setAgenda rest).advance with ⟨-, he⟩ | ⟨k, hk, -⟩
  · rw [he, State.fetchAddr_advance]
    rfl
  · rw [hnone] at hk
    cases hk

/-- Settles O42: the key reported is the lowest, and nothing is drawn. -/
theorem waitForKeyReportsLowest : Obligations.WaitForKeyReportsLowest := by
  intro x s k hlowest hdown hleast
  have hkey := State.reportedKey_lowest hlowest hdown hleast
  have heffect : effect s (.ldVxK x) = s.setV x (BitVec.ofNat 8 k) := by
    simp [effect, hkey, State.afterKeyChoice, hlowest]
  obtain ⟨t, ht, hx, hframes⟩ := exec_writesReg ((exec_ldVxK_eq x s).trans (congrArg _ heffect))
  exact ⟨t, ht, hx ▸ keyNumber_toNat hdown, hframes⟩

/-- Settles O43: some key is reported, and it is down. -/
theorem waitForKeyReportsPressedKey : Obligations.WaitForKeyReportsPressedKey := by
  intro x s hkeys
  rcases effect_ldVxK_cases x s with ⟨hnone, -⟩ | ⟨k, hk, he⟩
  · exact absurd (State.reportedKey_eq_none.1 hnone) hkeys
  · have hdown := State.reportedKey_down hk
    refine ⟨_, exec_ldVxK_eq x s, ?_, effect_sameRegsExcept s (by simp [mayWriteReg]), ?_⟩
    · rw [he, State.getV_setV_same, keyNumber_toNat hdown]
      exact hdown
    · rw [he]
      rcases s.afterKeyChoice_cases with h | h <;> rw [h]
      · exact (s.setV_frame _ _).mono (by simp)
      · exact (s.countDraw_frame.comp (State.setV_frame _ _ _)).mono (by simp)

/-! ### EX9E and EXA1 -/

/-- Settles O40: on a key number each skip has its effect, an update of pc. -/
theorem skipOnKeyLevel : Obligations.SkipOnKeyLevel := by
  intro x s hnibble
  have hvalue : nibbleFault s.cfg (s.getV x) = false := nibbleFault_false hnibble
  have hkey : s.keyDown (lowNibble (s.getV x)) = s.keys.getLsbD ((s.getV x).toNat % 16) := by
    rw [lowNibble_eq, State.keyDown]
  constructor
  · refine ⟨_, (exec_skpVx_eq x s).trans (by rw [hvalue]; rfl), ?_, s.setPc_frame _⟩
    rw [← hkey]
    rfl
  · refine ⟨_, (exec_sknpVx_eq x s).trans (by rw [hvalue]; rfl), ?_, s.setPc_frame _⟩
    rw [← hkey]
    rfl

end Sys2Proof.Machine
end

section
/-! Proofs of the family 60_exceptions.md and 70_reset_and_hazards.md: the Tick (R150), the Host's moves
(R158), and RESET and LOAD (R170 to R172). -/

namespace Sys2Proof.Machine

/-! ### Ticks and the Host's moves -/

theorem tick_st_toNat {s : State} (hrun : s.status.run = true) :
    (tick s).st.toNat = s.st.toNat - 1 := by
  simp [tick, hrun, countDown_toNat]

theorem tick_halted {s : State} (h : s.status.run = false) : tick s = s := by
  simp [tick, h]

/-- Settles O46: the Tick of the state with the schedule moved on. -/
theorem tickCountsDownSaturating : Obligations.TickCountsDownSaturating := by
  intro s rest hagenda
  have hframe : SameExcept [.dt, .st, .agenda] s (tick (s.setAgenda rest)) :=
    ((s.setAgenda_frame rest).comp (tick_frame _)).mono (by simp)
  refine ⟨_, step_of_event hagenda, ?_, fun hrun => ?_, fun hhalted => ?_⟩
  · exact tick_frame (s.setAgenda rest) .agenda (by simp)
  · exact ⟨tick_dt_toNat (s := s.setAgenda rest) hrun, tick_st_toNat (s := s.setAgenda rest) hrun,
      hframe⟩
  · rw [tick_halted (s := s.setAgenda rest) hhalted]
    exact s.setAgenda_frame rest

/-- Settles O47: each move is one update after the schedule has moved on. -/
theorem hostMovesChangeOnlyTheirInput : Obligations.HostMovesChangeOnlyTheirInput := by
  intro s levels rest
  constructor
  · intro hagenda
    exact ⟨_, step_of_event hagenda, rfl, rfl,
      ((s.setAgenda_frame rest).comp (State.setKeys_frame levels _)).mono (by simp)⟩
  · intro hagenda
    exact ⟨_, step_of_event hagenda, rfl, rfl, rfl,
      ((s.setAgenda_frame rest).comp (State.setDirty_frame false _)).mono (by simp)⟩

/-! ### RESET -/

theorem resetWith_readByte (c : Config) {a : Nat} (ha : a < 4096) :
    (resetWith c).readByte a = resetByte c a := by
  change resetByte c (a % 4096) = _
  rw [Nat.mod_eq_of_lt ha]

/-- RESET keeps what is not the machine's state, and no more. -/
theorem State.afterReset_frame (s : State) :
    SameExcept [.keys, .draws, .agenda] (resetWith s.cfg) s.afterReset := by
  intro p hp
  cases p with
  | keys | draws | agenda => simp at hp
  | v | mem => exact fun _ => rfl
  | stack => exact ⟨rfl, rfl⟩
  | _ => rfl

/-- Settles O48: a store of the image over memory as after reset. -/
theorem restartLoadsImage : Obligations.RestartLoadsImage := by
  intro s image rest hagenda
  have hstep := step_of_event hagenda
  constructor
  · intro hlong
    exact hstep.trans (restart_of_long hlong _)
  · intro hfits
    have hframe := State.writeBytes_frame loadBase image (s.setAgenda rest).afterReset
    refine ⟨_, hstep.trans (restart_of_fits hfits _), fun k b hk => ?_, fun a ha hout => ?_, ?_,
      hframe .keys (by simp), hframe .draws (by simp), hframe .agenda (by simp)⟩
    · exact State.writeBytes_readByte (hfits.trans (by decide)) hk
    · have hother : ∀ k, k < image.length → busAddress a ≠ busAddress (loadBase + k) := by
        intro k hk
        unfold busAddress memSize loadBase
        omega
      exact (State.writeBytes_other _ _ _ a hother).trans (resetWith_readByte s.cfg ha)
    · exact ((s.setAgenda rest).afterReset_frame.comp hframe).mono (by simp)

/-- Settles O49: the fields of the reset state, and memory byte by byte. -/
theorem resetValues : Obligations.ResetValues := by
  refine ⟨fun r => ?_, rfl, rfl, rfl, rfl, fun a hfont => ?_, fun a hfont hmem => ?_, pixel_blank,
    rfl, rfl, rfl, rfl, rfl⟩
  · simp [State.reset, resetWith, State.getV]
  · have hlen : a < fontDefault.length := hfont
    rw [State.reset, resetWith_readByte _ (by omega), List.getElem?_eq_getElem hlen]
    simp [resetByte, defaultConfig, fontBytes, hfont, List.getElem?_eq_getElem hlen]
  · rw [State.reset, resetWith_readByte _ hmem]
    simp [resetByte, defaultConfig, fontBytes, Nat.not_lt.2 hfont]

end Sys2Proof.Machine
end

section
/-! Proofs of the family 43_display.md: the draw (R111 to R113). A draw plots each set sprite bit once,
and no two bits of one sprite land on one pixel, so each covered pixel is flipped exactly once. -/

namespace Sys2Proof.Machine

/-! ### Flipping exactly a set of pixels -/

/-- From `c` to `c'` exactly the pixels in `P` are flipped, and the collision detector has seen whether
one of them was set. -/
structure Flips (P : Fin 32 → Fin 64 → Prop) (c c' : Canvas) : Prop where
  flipped : ∀ row col, P row col → pixel c'.1 row col = !pixel c.1 row col
  kept : ∀ row col, ¬ P row col → pixel c'.1 row col = pixel c.1 row col
  collided : c'.2 = true ↔ c.2 = true ∨ ∃ row col, P row col ∧ pixel c.1 row col = true

theorem Flips.of_iff {P Q : Fin 32 → Fin 64 → Prop} {c c' : Canvas} (h : Flips P c c')
    (hPQ : ∀ row col, P row col ↔ Q row col) : Flips Q c c' := by
  have hsame : P = Q := funext fun row => funext fun col => propext (hPQ row col)
  exact hsame ▸ h

theorem Flips.nothing (c : Canvas) : Flips (fun _ _ => False) c c :=
  ⟨fun _ _ h => h.elim, fun _ _ _ => rfl, by simp⟩

/-- Two draws that share no pixel are one draw of both. -/
theorem Flips.comp {P Q : Fin 32 → Fin 64 → Prop} {c c' c'' : Canvas} (h : Flips P c c')
    (h' : Flips Q c' c'') (hdisjoint : ∀ row col, P row col → ¬ Q row col) :
    Flips (fun row col => P row col ∨ Q row col) c c'' := by
  have hbefore {row col} (hq : Q row col) : pixel c'.1 row col = pixel c.1 row col :=
    h.kept row col fun hp => hdisjoint row col hp hq
  refine ⟨fun row col hpq => ?_, fun row col hpq => ?_, ?_⟩
  · rcases hpq with hp | hq
    · rw [h'.kept row col (hdisjoint row col hp), h.flipped row col hp]
    · rw [h'.flipped row col hq, hbefore hq]
  · obtain ⟨hp, hq⟩ := not_or.1 hpq
    rw [h'.kept row col hq, h.kept row col hp]
  · rw [h'.collided, h.collided, or_assoc]
    refine or_congr_right ⟨?_, ?_⟩
    · rintro (⟨row, col, hp, hset⟩ | ⟨row, col, hq, hset⟩)
      · exact ⟨row, col, .inl hp, hset⟩
      · exact ⟨row, col, .inr hq, hbefore hq ▸ hset⟩
    · rintro ⟨row, col, hp | hq, hset⟩
      · exact .inl ⟨row, col, hp, hset⟩
      · exact .inr ⟨row, col, hq, (hbefore hq).trans hset⟩

/-! ### Bits, rows, sprites -/

/-- One set sprite bit flips the pixel it lands on, if any. -/
theorem plot_flips (e : DrawEdge) (py px : Nat) (c : Canvas) :
    Flips (landsOn e py px) c (plot e py px c) := by
  refine ⟨fun row col h => ?_, fun row col h => ?_, ?_⟩
  · rw [pixel_plot, decide_eq_true ((target_eq_some e py px row col).2 h), Bool.xor_true]
  · rw [pixel_plot, decide_eq_false ((target_eq_some e py px row col).not.2 h), Bool.xor_false]
  · simp only [collided_plot, target_eq_some]

/-- One sprite bit, set or not. -/
theorem plotIf_flips (e : DrawEdge) (py px : Nat) (b : Bool) (c : Canvas) :
    Flips (fun row col => b = true ∧ landsOn e py px row col) c
      (if b then plot e py px c else c) := by
  cases b with
  | true => exact (plot_flips e py px c).of_iff fun _ _ => by simp
  | false => exact (Flips.nothing c).of_iff fun _ _ => by simp

/-- Two bits of a sprite on the same pixel are in the same row and column of the sprite. -/
theorem landsOn_unique {e : DrawEdge} {y0 x0 r r' k k' : Nat} {row : Fin 32} {col : Fin 64}
    (hr : r < 32 ∧ r' < 32) (hk : k < 64 ∧ k' < 64)
    (h : landsOn e (y0 + r) (x0 + k) row col) (h' : landsOn e (y0 + r') (x0 + k') row col) :
    r = r' ∧ k = k' := by
  cases e <;> simp only [landsOn] at h h' <;> omega

/-- Some set bit of the byte from column `k0` to before `k1` lands on the pixel. -/
def rowCovers (e : DrawEdge) (py x0 : Nat) (b : Byte) (k0 k1 : Nat) (row : Fin 32) (col : Fin 64) :
    Prop :=
  ∃ k, k0 ≤ k ∧ k < k1 ∧ b.getMsbD k = true ∧ landsOn e py (x0 + k) row col

theorem drawBits_flips (e : DrawEdge) (py x0 : Nat) (b : Byte) (k left : Nat) (c : Canvas)
    (hfits : k + left ≤ 8) :
    Flips (rowCovers e py x0 b k (k + left)) c (drawBits e py x0 b k left c) := by
  induction left generalizing k c with
  | zero => exact (Flips.nothing c).of_iff fun _ _ => by simp [rowCovers]; omega
  | succ left ih =>
    have hfirst := plotIf_flips e py (x0 + k) (b.getMsbD k) c
    have hrest := ih (k + 1) (if b.getMsbD k then plot e py (x0 + k) c else c) (by omega)
    refine (hfirst.comp hrest ?_).of_iff ?_
    · rintro row col ⟨-, hland⟩ ⟨k', hk, hk', -, hland'⟩
      have := (landsOn_unique (y0 := py) (r := 0) (r' := 0) (by omega) (by omega) hland hland').2
      omega
    · intro row col
      constructor
      · rintro (⟨hb, hland⟩ | ⟨k', hk, hk', hrest⟩)
        · exact ⟨k, Nat.le_refl k, by omega, hb, hland⟩
        · exact ⟨k', by omega, by omega, hrest⟩
      · rintro ⟨k', hk, hk', hb, hland⟩
        by_cases heq : k' = k
        · exact .inl (heq ▸ ⟨hb, hland⟩)
        · exact .inr ⟨k', by omega, by omega, hb, hland⟩

/-- Some set bit of some byte of the sprite lands on the pixel, the first byte at row `y0`. -/
def bytesCover (e : DrawEdge) (y0 x0 : Nat) (bs : List Byte) (row : Fin 32) (col : Fin 64) : Prop :=
  ∃ r b, bs[r]? = some b ∧ rowCovers e (y0 + r) x0 b 0 8 row col

theorem drawRows_flips (e : DrawEdge) (x0 y0 : Nat) (bs : List Byte) (c : Canvas)
    (hfits : bs.length ≤ 32) : Flips (bytesCover e y0 x0 bs) c (drawRows e x0 y0 bs c) := by
  induction bs generalizing y0 c with
  | nil => exact (Flips.nothing c).of_iff fun _ _ => by simp [bytesCover]
  | cons b bs ih =>
    rw [List.length_cons] at hfits
    have hfirst := drawBits_flips e y0 x0 b 0 8 c (Nat.le_refl 8)
    have hrest := ih (y0 + 1) (drawBits e y0 x0 b 0 8 c) (by omega)
    refine (hfirst.comp hrest ?_).of_iff ?_
    · rintro row col ⟨k, -, hk, -, hland⟩ ⟨r, b', hb', k', -, hk', -, hland'⟩
      have hr : r < bs.length := (List.getElem?_eq_some_iff.1 hb').1
      rw [Nat.add_assoc] at hland'
      have := (landsOn_unique (r := 0) (by omega) (by omega) hland hland').1
      omega
    · intro row col
      constructor
      · rintro (hcovers | ⟨r, b', hb', hcovers⟩)
        · exact ⟨0, b, rfl, hcovers⟩
        · exact ⟨r + 1, b', hb', by rwa [Nat.add_assoc, Nat.add_comm 1 r] at hcovers⟩
      · rintro ⟨r, b', hb', hcovers⟩
        cases r with
        | zero => cases hb'; exact .inl hcovers
        | succ r => exact .inr ⟨r, b', hb', by rwa [Nat.add_assoc, Nat.add_comm 1 r]⟩

/-- Bit 7 - k of a byte is its column k (43_display.md R112). -/
theorem getMsbD_byte (b : Byte) {k : Nat} (hk : k < 8) : b.getMsbD k = b.getLsbD (7 - k) := by
  simp [BitVec.getMsbD, hk]

theorem State.bytesFrom_getElem?_eq_some {s : State} {a n k : Nat} {b : Byte} :
    (s.bytesFrom a n)[k]? = some b ↔ k < n ∧ s.readByte (a + k) = b := by
  simp [List.getElem?_eq_some_iff, State.bytesFrom]

/-- The sprite at I covers what its bytes cover. -/
theorem bytesCover_iff_spriteCovers (x y n : Nib) (s : State) (row : Fin 32) (col : Fin 64) :
    bytesCover s.cfg.drawEdge (s.getV y).toNat (s.getV x).toNat (s.bytesFrom s.i.toNat n.toNat)
      row col ↔ spriteCovers s x y n row col := by
  constructor
  · rintro ⟨r, b, hb, k, -, hk, hbit, hland⟩
    obtain ⟨hr, rfl⟩ := State.bytesFrom_getElem?_eq_some.1 hb
    exact ⟨r, k, hr, hk, getMsbD_byte _ hk ▸ hbit, hland⟩
  · rintro ⟨r, k, hr, hk, hbit, hland⟩
    exact ⟨r, _, State.bytesFrom_getElem?_eq_some.2 ⟨hr, rfl⟩, k, Nat.zero_le k, hk,
      (getMsbD_byte _ hk).trans hbit, hland⟩

theorem spriteCanvas_flips (x y n : Nib) (s : State) :
    Flips (spriteCovers s x y n) (s.display, false) (spriteCanvas x y n s) := by
  have hlen : (s.bytesFrom s.i.toNat n.toNat).length ≤ 32 := by
    have := n.isLt
    rw [State.bytesFrom_length]
    omega
  exact (drawRows_flips _ _ _ _ _ hlen).of_iff (bytesCover_iff_spriteCovers x y n s)

/-! ### DXYN -/

theorem exec_drwVxVyN_fits {s : State} (x y n : Nib)
    (hrange : rangeFault s.cfg s.i.toNat n.toNat = false) :
    exec (.drwVxVyN x y n) s = .next (effect s (.drwVxVyN x y n)) :=
  exec_effect rfl (raisedCause_eq_none (by simp) (by simp) hrange)

theorem effect_drwVxVyN_flag (x y n : Nib) (s : State) :
    (effect s (.drwVxVyN x y n)).getV 0xF#4 = collisionFlag (spriteCanvas x y n s).2 :=
  State.getV_setV_same _ flagReg _

/-- VF is 1 exactly if a covered pixel was set. -/
theorem spriteCanvas_collided (x y n : Nib) (s : State) :
    (spriteCanvas x y n s).2 = true ↔
      ∃ row col, spriteCovers s x y n row col ∧ pixel s.display row col = true := by
  simpa using (spriteCanvas_flips x y n s).collided

theorem effect_drwVxVyN_flag_set {x y n : Nib} {s : State}
    (h : ∃ row col, spriteCovers s x y n row col ∧ pixel s.display row col = true) :
    (effect s (.drwVxVyN x y n)).getV 0xF#4 = 1#8 := by
  rw [effect_drwVxVyN_flag, (spriteCanvas_collided x y n s).2 h]
  rfl

theorem effect_drwVxVyN_flag_clear {x y n : Nib} {s : State}
    (h : ∀ row col, spriteCovers s x y n row col → pixel s.display row col = false) :
    (effect s (.drwVxVyN x y n)).getV 0xF#4 = 0#8 := by
  have hclear : (spriteCanvas x y n s).2 = false := by
    rw [← Bool.not_eq_true, spriteCanvas_collided]
    rintro ⟨row, col, hcovers, hset⟩
    rw [h row col hcovers] at hset
    cases hset
  rw [effect_drwVxVyN_flag, hclear]
  rfl

/-- Settles O38: the display is the canvas, VF its collision detector. -/
theorem drawFlipsCoveredPixels : Obligations.DrawFlipsCoveredPixels := by
  intro x y n s hrange
  have hflips := spriteCanvas_flips x y n s
  exact ⟨_, exec_drwVxVyN_fits x y n hrange, hflips.flipped, hflips.kept, effect_drwVxVyN_flag_set,
    effect_drwVxVyN_flag_clear, rfl, effect_sameRegsExcept s (by simp [mayWriteReg]),
    effect_frame (.drwVxVyN x y n) s⟩

/-- A sprite covers the same pixels after a draw and a change of pc, its coordinates not being VF. -/
theorem spriteCovers_after_draw {x y : Nib} (hx : x ≠ 0xF#4) (hy : y ≠ 0xF#4) (n : Nib) (s : State)
    (p : Word) (row : Fin 32) (col : Fin 64) :
    spriteCovers ((effect s (.drwVxVyN x y n)).setPc p) x y n row col ↔
      spriteCovers s x y n row col := by
  have hvx : ((effect s (.drwVxVyN x y n)).setPc p).getV x = s.getV x := effect_regsFrame _ s hx
  have hvy : ((effect s (.drwVxVyN x y n)).setPc p).getV y = s.getV y := effect_regsFrame _ s hy
  unfold spriteCovers
  rw [hvx, hvy]
  rfl

/-- Settles O39: the second draw covers the same pixels, each flipped before. -/
theorem drawTwiceRestoresDisplay : Obligations.DrawTwiceRestoresDisplay := by
  intro x y n s p hrange hx hy
  have hsame := spriteCovers_after_draw hx hy n s p
  have hfirst := spriteCanvas_flips x y n s
  have hsecond := spriteCanvas_flips x y n ((effect s (.drwVxVyN x y n)).setPc p)
  refine ⟨_, _, exec_drwVxVyN_fits x y n hrange, exec_drwVxVyN_fits x y n hrange, ?_, ?_, ?_⟩
  · refine display_ext fun row col => ?_
    by_cases hcovers : spriteCovers s x y n row col
    · calc
        _ = !pixel (spriteCanvas x y n s).1 row col :=
          hsecond.flipped row col ((hsame row col).2 hcovers)
        _ = pixel s.display row col := by rw [hfirst.flipped row col hcovers, Bool.not_not]
    · exact (hsecond.kept row col (mt (hsame row col).1 hcovers)).trans
        (hfirst.kept row col hcovers)
  · rintro ⟨row, col, hcovers, hunset⟩
    have hset : pixel (spriteCanvas x y n s).1 row col = true := by
      rw [hfirst.flipped row col hcovers]
      exact congrArg (!·) hunset
    exact effect_drwVxVyN_flag_set ⟨row, col, (hsame row col).2 hcovers, hset⟩
  · intro hall
    refine effect_drwVxVyN_flag_clear fun row col hcovers => ?_
    have hcovered := (hsame row col).1 hcovers
    exact (hfirst.flipped row col hcovered).trans (congrArg (!·) (hall row col hcovered))

end Sys2Proof.Machine
end
